-- ==== Sys2Proof/Word.lean ====
section
/-! DEFINITION. Word.lean: the word types of the machine (10_state.md R20, 30_encoding.md R92). -/

namespace Sys2Proof

/-- A memory byte or a general register (R21, R60): 8 bits. -/
abbrev Byte := BitVec 8

/-- An opcode, `I`, `PC` or a stack entry (R23, R24, R26, R90): 16 bits. -/
abbrev Word := BitVec 16

/-- The immediate `nnn` (R92): a 12-bit byte address. -/
abbrev Addr12 := BitVec 12

/-- The field `n` (R92), and the ignored low digit of format `XY` (R95): 4 bits. -/
abbrev Nibble := BitVec 4

/-- A general register's number, `V0` to `VF` (R21). -/
abbrev Reg := Fin 16

/-- A logical key, 0x0 to 0xF (R30). -/
abbrev Key := Fin 16

end Sys2Proof
end

