-- ==== Sys2Proof/Config.lean ====
section
/-! DEFINITION. Config.lean: what an implementation fixes (00_scope.md R6, R7) and the free value of Cxnn. -/

namespace Sys2Proof

/-- `MEM_SIZE` (R6): bytes of memory. -/
abbrev Config.memSize : Nat := 4096

/-- `PROG_START` (R6): load address, reset value of `PC`, target of the fetch wrap. -/
abbrev Config.progStart : Nat := 0x200

/-- `PROG_CAP` (R6): the most bytes a ROM load copies. -/
abbrev Config.progCap : Nat := 3232

/-- `GLYPH_STRIDE` (R6): bytes per glyph. -/
abbrev Config.glyphStride : Nat := 5

/-- The open parameters of R7 that a rule uses; the external operations take them as an argument.
`IPS` is used by no rule and is not here. -/
structure Config.Params where
  /-- `FONT` (R37): the 80 bytes that `Reset()` copies to addresses 0 to 79. -/
  font : Vector Byte 80
  /-- `KEYMAP` (R255), given by its inverse: entry `k` is the physical code of logical key `k`. -/
  keyCodes : Vector Nat 16
  deriving DecidableEq, Repr

/-- `KEYMAP` is a partial function with 16 codes in its domain onto 0x0 to 0xF (D24): the 16 codes differ. -/
abbrev Config.Params.wf (P : Config.Params) : Prop := P.keyCodes.toList.Nodup

/-- The free byte of the `n`-th random draw (R173, D16): no body, so nothing can be known of it.
DESIGN CHOICE, log entry 1 (safe: a statement holds whatever the bytes are). -/
opaque Config.randomByte : Nat → Byte

end Sys2Proof
end

