-- ==== Sys2Proof/Syntax.lean ====
section
/-! DEFINITION. Syntax.lean: the 34 instructions of 30_encoding.md R96, one constructor per row of the
opcode map. Bits an instruction ignores (the low digit of format `XY`, R95; `y` of the two shifts, R168,
R170) are kept as fields, so that a term says its whole word. -/

namespace Sys2Proof

/-- The instructions of R96, in the table's order. -/
inductive Instr where
  /-- 00E0 `CLS` (R211). -/
  | cls
  /-- 00EE `RET` (R140). -/
  | ret
  /-- 1nnn `JP nnn` (R141). -/
  | jp (nnn : Addr12)
  /-- 2nnn `CALL nnn` (R142). -/
  | call (nnn : Addr12)
  /-- 3xnn `SE Vx, nn` (R143). -/
  | seImm (x : Reg) (nn : Byte)
  /-- 4xnn `SNE Vx, nn` (R144). -/
  | sneImm (x : Reg) (nn : Byte)
  /-- 5xy0 `SE Vx, Vy` (R145); `low` is the ignored digit (R95). -/
  | seReg (x y : Reg) (low : Nibble)
  /-- 6xnn `LD Vx, nn` (R160). -/
  | ldImm (x : Reg) (nn : Byte)
  /-- 7xnn `ADD Vx, nn` (R161). -/
  | addImm (x : Reg) (nn : Byte)
  /-- 8xy0 `LD Vx, Vy` (R162). -/
  | ldReg (x y : Reg)
  /-- 8xy1 `OR Vx, Vy` (R163). -/
  | orReg (x y : Reg)
  /-- 8xy2 `AND Vx, Vy` (R164). -/
  | andReg (x y : Reg)
  /-- 8xy3 `XOR Vx, Vy` (R165). -/
  | xorReg (x y : Reg)
  /-- 8xy4 `ADD Vx, Vy` (R166). -/
  | addReg (x y : Reg)
  /-- 8xy5 `SUB Vx, Vy` (R167). -/
  | subReg (x y : Reg)
  /-- 8xy6 `SHR Vx` (R168); `y` is not used. -/
  | shr (x y : Reg)
  /-- 8xy7 `SUBN Vx, Vy` (R169). -/
  | subnReg (x y : Reg)
  /-- 8xyE `SHL Vx` (R170); `y` is not used. -/
  | shl (x y : Reg)
  /-- 9xy0 `SNE Vx, Vy` (R146); `low` is the ignored digit (R95). -/
  | sneReg (x y : Reg) (low : Nibble)
  /-- Annn `LD I, nnn` (R190). -/
  | ldI (nnn : Addr12)
  /-- Bnnn `JP V0, nnn` (R147). -/
  | jpV0 (nnn : Addr12)
  /-- Cxnn `RND Vx, nn` (R173). -/
  | rnd (x : Reg) (nn : Byte)
  /-- Dxyn `DRW Vx, Vy, n` (R212). -/
  | drw (x y : Reg) (n : Nibble)
  /-- Ex9E `SKP Vx` (R220). -/
  | skp (x : Reg)
  /-- ExA1 `SKNP Vx` (R221). -/
  | sknp (x : Reg)
  /-- Fx07 `LD Vx, DT` (R222). -/
  | ldVxDt (x : Reg)
  /-- Fx0A `LD Vx, K` (R223). -/
  | ldVxK (x : Reg)
  /-- Fx15 `LD DT, Vx` (R224). -/
  | ldDtVx (x : Reg)
  /-- Fx18 `LD ST, Vx` (R225). -/
  | ldStVx (x : Reg)
  /-- Fx1E `ADD I, Vx` (R191). -/
  | addI (x : Reg)
  /-- Fx29 `LD F, Vx` (R192). -/
  | ldF (x : Reg)
  /-- Fx33 `LD B, Vx` (R193). -/
  | ldB (x : Reg)
  /-- Fx55 `LD [I], Vx` (R194). -/
  | stRegs (x : Reg)
  /-- Fx65 `LD Vx, [I]` (R195). -/
  | ldRegs (x : Reg)
  deriving DecidableEq, Repr

end Sys2Proof
end

