-- ==== Sys2Proof/WellFormed.lean ====
section
/-! DEFINITION. WellFormed.lean: the canonical spelling of an instruction, the one an assembler emits
(30_encoding.md R95, R100). Every field's range is already its type. The machine also decodes and runs
the other spellings, so no statement about what an instruction does takes this as a premise. -/

namespace Sys2Proof

/-- What an assembler emits: the ignored low digit of 5xy0 and 9xy0 is 0 (R95), and the unused `y` of
SHR and SHL is 0 (R100). -/
def Instr.wellFormed : Instr → Bool
  | .seReg _ _ low => low == 0
  | .sneReg _ _ low => low == 0
  | .shr _ y => y == 0
  | .shl _ y => y == 0
  | .cls | .ret | .jp _ | .call _ | .seImm _ _ | .sneImm _ _ | .ldImm _ _ | .addImm _ _
  | .ldReg _ _ | .orReg _ _ | .andReg _ _ | .xorReg _ _ | .addReg _ _ | .subReg _ _ | .subnReg _ _
  | .ldI _ | .jpV0 _ | .rnd _ _ | .drw _ _ _ | .skp _ | .sknp _ | .ldVxDt _ | .ldVxK _ | .ldDtVx _
  | .ldStVx _ | .addI _ | .ldF _ | .ldB _ | .stRegs _ | .ldRegs _ => true

end Sys2Proof
end

