-- ==== Sys2Proof/Decode.lean ====
section
/-! DEFINITION. Decode.lean: the two-level decoder of 30_encoding.md R94, then the encoder and the rows
of the opcode map R96, written from the same encodings. -/

namespace Sys2Proof

/-- The four groups of unrecognized words (R97): the decoder rejects a word by the name of its group.
Such a word is a no-operation (R126), not a refusal. -/
inductive Unrecognized where
  /-- R97 (a): category 0, argument other than 0x0E0 and 0x0EE. -/
  | category0
  /-- R97 (b): category 8, subcode 8, 9, A, B, C, D or F. -/
  | category8
  /-- R97 (c): category E, subcode other than 0x9E and 0xA1. -/
  | categoryE
  /-- R97 (d): category F, subcode not in the table. -/
  | categoryF
  deriving DecidableEq, Repr

/-- What a word decodes to (R94): one instruction, or unrecognized. -/
inductive Decoded where
  | instr (i : Instr)
  | unrecognized (g : Unrecognized)
  deriving DecidableEq, Repr

/-! Fields (R92). -/

/-- `cat` = `op[15:12]`. -/
def opCat (op : Word) : Nibble := op.extractLsb' 12 4

/-- `x` = `op[11:8]`. -/
def opX (op : Word) : Reg := (op.extractLsb' 8 4).toFin

/-- `y` = `op[7:4]`. -/
def opY (op : Word) : Reg := (op.extractLsb' 4 4).toFin

/-- `n` = `op[3:0]`. -/
def opN (op : Word) : Nibble := op.extractLsb' 0 4

/-- `nn` = `op[7:0]`. -/
def opNN (op : Word) : Byte := op.extractLsb' 0 8

/-- `nnn` = `op[11:0]`. -/
def opNNN (op : Word) : Addr12 := op.extractLsb' 0 12

/-! Decoding (R94). -/

/-- Category 0: the whole 12-bit argument selects. -/
def decodeCategory0 (op : Word) : Decoded :=
  if opNNN op = 0x0E0#12 then .instr .cls
  else if opNNN op = 0x0EE#12 then .instr .ret
  else .unrecognized .category0

/-- Category 8: the low digit selects. -/
def decodeCategory8 (op : Word) : Decoded :=
  match (opN op).toNat with
  | 0x0 => .instr (.ldReg (opX op) (opY op))
  | 0x1 => .instr (.orReg (opX op) (opY op))
  | 0x2 => .instr (.andReg (opX op) (opY op))
  | 0x3 => .instr (.xorReg (opX op) (opY op))
  | 0x4 => .instr (.addReg (opX op) (opY op))
  | 0x5 => .instr (.subReg (opX op) (opY op))
  | 0x6 => .instr (.shr (opX op) (opY op))
  | 0x7 => .instr (.subnReg (opX op) (opY op))
  | 0xE => .instr (.shl (opX op) (opY op))
  | _ => .unrecognized .category8

/-- Category E: the low byte selects. -/
def decodeCategoryE (op : Word) : Decoded :=
  if opNN op = 0x9E#8 then .instr (.skp (opX op))
  else if opNN op = 0xA1#8 then .instr (.sknp (opX op))
  else .unrecognized .categoryE

/-- Category F: the low byte selects. -/
def decodeCategoryF (op : Word) : Decoded :=
  if opNN op = 0x07#8 then .instr (.ldVxDt (opX op))
  else if opNN op = 0x0A#8 then .instr (.ldVxK (opX op))
  else if opNN op = 0x15#8 then .instr (.ldDtVx (opX op))
  else if opNN op = 0x18#8 then .instr (.ldStVx (opX op))
  else if opNN op = 0x1E#8 then .instr (.addI (opX op))
  else if opNN op = 0x29#8 then .instr (.ldF (opX op))
  else if opNN op = 0x33#8 then .instr (.ldB (opX op))
  else if opNN op = 0x55#8 then .instr (.stRegs (opX op))
  else if opNN op = 0x65#8 then .instr (.ldRegs (opX op))
  else .unrecognized .categoryF

/-- Decoding is two-level and total (R94). -/
def decode (op : Word) : Decoded :=
  match (opCat op).toNat with
  | 0x0 => decodeCategory0 op
  | 0x1 => .instr (.jp (opNNN op))
  | 0x2 => .instr (.call (opNNN op))
  | 0x3 => .instr (.seImm (opX op) (opNN op))
  | 0x4 => .instr (.sneImm (opX op) (opNN op))
  | 0x5 => .instr (.seReg (opX op) (opY op) (opN op))
  | 0x6 => .instr (.ldImm (opX op) (opNN op))
  | 0x7 => .instr (.addImm (opX op) (opNN op))
  | 0x8 => decodeCategory8 op
  | 0x9 => .instr (.sneReg (opX op) (opY op) (opN op))
  | 0xA => .instr (.ldI (opNNN op))
  | 0xB => .instr (.jpV0 (opNNN op))
  | 0xC => .instr (.rnd (opX op) (opNN op))
  | 0xD => .instr (.drw (opX op) (opY op) (opN op))
  | 0xE => decodeCategoryE op
  | _ => decodeCategoryF op

/-- The opcode two consecutive bytes spell: big-endian, high byte first (20_memory.md R64). -/
def wordOfBytes (hi lo : Byte) : Word := hi ++ lo

/-- Decoding the bytes of an instruction as memory holds them (R64, R90). -/
def decodeBytes (hi lo : Byte) : Decoded := decode (wordOfBytes hi lo)

/-! Encoding (R91, R96). -/

/-- Format `NNN`: category and a 12-bit address. -/
def encNNN (cat : Nibble) (nnn : Addr12) : Word := cat ++ nnn

/-- Formats `XNN` and `XS`: category, register, low byte (immediate or subcode). -/
def encXNN (cat : Nibble) (x : Reg) (nn : Byte) : Word := cat ++ (BitVec.ofFin x : Nibble) ++ nn

/-- Formats `XY`, `XYS` and `XYN`: category, two registers, low digit. -/
def encXYN (cat : Nibble) (x y : Reg) (n : Nibble) : Word :=
  cat ++ (BitVec.ofFin x : Nibble) ++ (BitVec.ofFin y : Nibble) ++ n

/-- The word of an instruction (R96). -/
def encode : Instr → Word
  | .cls => 0x00E0#16
  | .ret => 0x00EE#16
  | .jp nnn => encNNN 0x1#4 nnn
  | .call nnn => encNNN 0x2#4 nnn
  | .seImm x nn => encXNN 0x3#4 x nn
  | .sneImm x nn => encXNN 0x4#4 x nn
  | .seReg x y low => encXYN 0x5#4 x y low
  | .ldImm x nn => encXNN 0x6#4 x nn
  | .addImm x nn => encXNN 0x7#4 x nn
  | .ldReg x y => encXYN 0x8#4 x y 0x0#4
  | .orReg x y => encXYN 0x8#4 x y 0x1#4
  | .andReg x y => encXYN 0x8#4 x y 0x2#4
  | .xorReg x y => encXYN 0x8#4 x y 0x3#4
  | .addReg x y => encXYN 0x8#4 x y 0x4#4
  | .subReg x y => encXYN 0x8#4 x y 0x5#4
  | .shr x y => encXYN 0x8#4 x y 0x6#4
  | .subnReg x y => encXYN 0x8#4 x y 0x7#4
  | .shl x y => encXYN 0x8#4 x y 0xE#4
  | .sneReg x y low => encXYN 0x9#4 x y low
  | .ldI nnn => encNNN 0xA#4 nnn
  | .jpV0 nnn => encNNN 0xB#4 nnn
  | .rnd x nn => encXNN 0xC#4 x nn
  | .drw x y n => encXYN 0xD#4 x y n
  | .skp x => encXNN 0xE#4 x 0x9E#8
  | .sknp x => encXNN 0xE#4 x 0xA1#8
  | .ldVxDt x => encXNN 0xF#4 x 0x07#8
  | .ldVxK x => encXNN 0xF#4 x 0x0A#8
  | .ldDtVx x => encXNN 0xF#4 x 0x15#8
  | .ldStVx x => encXNN 0xF#4 x 0x18#8
  | .addI x => encXNN 0xF#4 x 0x1E#8
  | .ldF x => encXNN 0xF#4 x 0x29#8
  | .ldB x => encXNN 0xF#4 x 0x33#8
  | .stRegs x => encXNN 0xF#4 x 0x55#8
  | .ldRegs x => encXNN 0xF#4 x 0x65#8

/-- The bytes of a word as memory holds them, high byte first (R64). -/
def bytesOfWord (op : Word) : Byte × Byte := (op.extractLsb' 8 8, op.extractLsb' 0 8)

/-- The columns `match` and `mask` of an instruction's row of R96. -/
def Instr.row : Instr → Word × Word
  | .cls => (0x00E0#16, 0xFFFF#16)
  | .ret => (0x00EE#16, 0xFFFF#16)
  | .jp _ => (0x1000#16, 0xF000#16)
  | .call _ => (0x2000#16, 0xF000#16)
  | .seImm _ _ => (0x3000#16, 0xF000#16)
  | .sneImm _ _ => (0x4000#16, 0xF000#16)
  | .seReg _ _ _ => (0x5000#16, 0xF000#16)
  | .ldImm _ _ => (0x6000#16, 0xF000#16)
  | .addImm _ _ => (0x7000#16, 0xF000#16)
  | .ldReg _ _ => (0x8000#16, 0xF00F#16)
  | .orReg _ _ => (0x8001#16, 0xF00F#16)
  | .andReg _ _ => (0x8002#16, 0xF00F#16)
  | .xorReg _ _ => (0x8003#16, 0xF00F#16)
  | .addReg _ _ => (0x8004#16, 0xF00F#16)
  | .subReg _ _ => (0x8005#16, 0xF00F#16)
  | .shr _ _ => (0x8006#16, 0xF00F#16)
  | .subnReg _ _ => (0x8007#16, 0xF00F#16)
  | .shl _ _ => (0x800E#16, 0xF00F#16)
  | .sneReg _ _ _ => (0x9000#16, 0xF000#16)
  | .ldI _ => (0xA000#16, 0xF000#16)
  | .jpV0 _ => (0xB000#16, 0xF000#16)
  | .rnd _ _ => (0xC000#16, 0xF000#16)
  | .drw _ _ _ => (0xD000#16, 0xF000#16)
  | .skp _ => (0xE09E#16, 0xF0FF#16)
  | .sknp _ => (0xE0A1#16, 0xF0FF#16)
  | .ldVxDt _ => (0xF007#16, 0xF0FF#16)
  | .ldVxK _ => (0xF00A#16, 0xF0FF#16)
  | .ldDtVx _ => (0xF015#16, 0xF0FF#16)
  | .ldStVx _ => (0xF018#16, 0xF0FF#16)
  | .addI _ => (0xF01E#16, 0xF0FF#16)
  | .ldF _ => (0xF029#16, 0xF0FF#16)
  | .ldB _ => (0xF033#16, 0xF0FF#16)
  | .stRegs _ => (0xF055#16, 0xF0FF#16)
  | .ldRegs _ => (0xF065#16, 0xF0FF#16)

/-- The word whose bits are the low `nbits` bits of `w`, every higher bit 0. Bit 0 is the least significant
bit of the one 16-bit word an instruction has (30_encoding.md R90, R92). -/
def tableWord (nbits w : Nat) : Word := BitVec.ofNat 16 (w % 2 ^ nbits)

/-- The instruction the decoder reads from the two bytes of a table word, laid out as memory holds them;
`none` for an unrecognized word. -/
def decodeTableWord (nbits w : Nat) : Option Instr :=
  match decodeBytes (bytesOfWord (tableWord nbits w)).1 (bytesOfWord (tableWord nbits w)).2 with
  | .instr i => some i
  | .unrecognized _ => none

end Sys2Proof
end

