-- ==== Sys2Proof/Machine/State.lean ====
section
/-! DEFINITION. Machine/State.lean: the state of the machine as plain data (10_state.md R20), the outcome
reasons, and the state right after reset (R45, R47). -/

namespace Sys2Proof.Machine

/-- `SP` (R27): an integer in -1 to 15, the slot the next call writes. -/
inductive StackPtr where
  /-- -1: all 16 slots hold live return addresses. -/
  | full
  /-- 0 to 15; 15 is the empty stack. -/
  | slot (j : Fin 16)
  deriving DecidableEq, Repr

/-- `FAULT.cause` (R32, 60_exceptions.md R241). -/
inductive Cause where
  /-- 0: no fault latched. -/
  | noFault
  /-- 1. -/
  | fetchBounds
  /-- 2. -/
  | dataReadBounds
  /-- 3. -/
  | dataWriteBounds
  /-- 4. -/
  | stackOverflow
  /-- 5. -/
  | stackUnderflow
  deriving DecidableEq, Repr

/-- `FAULT` (R32): cause, the address the faulting instruction was fetched from, and the offending address
or opcode. -/
structure FaultLatch where
  cause : Cause
  pc : Word
  info : Nat
  deriving DecidableEq, Repr

/-- The output events (00_scope.md R10): display, audio, diagnostic. -/
inductive Event where
  /-- `Toggle(x, y)` (R210). -/
  | toggle (x : Fin 64) (y : Fin 32)
  /-- `Clear` (R210). -/
  | clear
  /-- `Render` (R210). -/
  | render
  /-- `StartTone` (R253). -/
  | startTone
  /-- `StopTone` (R253). -/
  | stopTone
  /-- `Diag(UnrecognizedOpcode, op, a)` (R126). -/
  | diagUnrecognized (op a : Word)
  /-- `Diag(Fault, code, a, info)` (R244). -/
  | diagFault (cause : Cause) (a : Word) (info : Nat)
  deriving DecidableEq, Repr

/-- `FB` (R40): 32 rows of 64 pixels. -/
abbrev Grid := Vector (Vector Bool 64) 32

/-- `MEM` (R34) as the cells that differ from the contents reset gives. -/
abbrev Memory := List Host.Cell

/-- The state of the machine (R20), the event trace (R42) and the model's draw counter. -/
structure State where
  /-- `V[0..15]` (R21). -/
  v : Vector Byte 16
  /-- `I` (R23). -/
  i : Word
  /-- `PC` (R24): between operations, the address of the next instruction to fetch. -/
  pc : Word
  /-- `STACK[0..15]` (R26). -/
  stack : Vector Word 16
  /-- `SP` (R27). -/
  sp : StackPtr
  /-- `DT` (R28). -/
  dt : Byte
  /-- `ST` (R29). -/
  st : Byte
  /-- `KEYS` (R30): bit k is 1 exactly when logical key k is pressed. -/
  keys : BitVec 16
  /-- `WAIT` (R31): the awaiting-key latch is armed. -/
  wait : Bool
  /-- `WAITREG` (R31). -/
  waitReg : Reg
  /-- `MEM` (R34). -/
  mem : Memory
  /-- `FAULT` (R32). -/
  fault : FaultLatch
  /-- `FB` (R40). -/
  fb : Grid
  /-- `TONE` (R41). -/
  tone : Bool
  /-- The event trace (R10, R42), oldest first. No rule reads it. -/
  trace : List Event
  /-- The MODEL's own field, not the spec's: which free byte the next draw of Cxnn takes (log entry 1). -/
  draws : Nat
  deriving DecidableEq, Repr

/-- Reasons the machine could stop for. It has none: in this machine every operation has a successor state
in every state (93_implementation_defined.md, Part 1), and a bounds error is a next state with `FAULT`
latched (R244), so no constructor is raised by anyone. -/
inductive Fault where
  deriving DecidableEq, Repr

/-- Reasons to have no meaning for an instruction. -/
inductive Refusal where
  /-- Raised by an arm of `exec` for an instruction without a meaning; no arm raises it now. Safe: a state
  the machine would go on from is not reached. -/
  | notModelled (mnemonic : String)
  deriving DecidableEq, Repr

/-- Power-on (R47): the reset state of R45 with `TONE` 0 and an empty trace. Memory lists nothing, since an
unlisted address reads as what reset puts there (Machine/Ops.lean, `Memory.initial`). `draws` is a
DESIGN CHOICE of the model (log entry 1, unsafe only for a statement about this one state). -/
def State.reset : State where
  v := Vector.replicate 16 0
  i := 0
  pc := 0x200
  stack := Vector.replicate 16 0
  sp := .slot 15
  dt := 0
  st := 0
  keys := 0
  wait := false
  waitReg := 0
  mem := []
  fault := { cause := .noFault, pc := 0, info := 0 }
  fb := Vector.replicate 32 (Vector.replicate 64 false)
  tone := false
  trace := []
  draws := 0

end Sys2Proof.Machine
end

