-- ==== Sys2Proof/Machine/Ops.lean ====
section
/-! DEFINITION. Machine/Ops.lean: the named operations over memory, registers, stack, events and the fault
latch that every meaning is written with. -/

namespace Sys2Proof.Machine

/-! Memory (20_memory.md). -/

/-- What an unlisted address reads as: what reset puts there (10_state.md R34), with the default `FONT`. -/
def Memory.initial (a : Nat) : Byte :=
  if h : a < 80 then defaultFont[a] else 0

/-- The byte at an address (R66, without the bounds check). -/
def Memory.read (m : Memory) (a : Nat) : Byte :=
  match m with
  | [] => Memory.initial a
  | (b, w) :: rest => if b = a then w else Memory.read rest a

/-- Puts a cell in its place by rising address. -/
def Memory.insertCell (m : Memory) (a : Nat) (w : Byte) : Memory :=
  match m with
  | [] => [(a, w)]
  | (b, u) :: rest => if a < b then (a, w) :: (b, u) :: rest else (b, u) :: Memory.insertCell rest a w

/-- Stores one byte (R67, without the bounds check) and keeps the canonical form: a byte that an unlisted
address would read as is not listed. -/
def Memory.write (m : Memory) (a : Nat) (w : Byte) : Memory :=
  if w = Memory.initial a then m.filter (fun c => c.1 != a)
  else Memory.insertCell (m.filter (fun c => c.1 != a)) a w

/-- The `k` bytes from `a` upward. -/
def Memory.readBytes (m : Memory) (a : Nat) : Nat → List Byte
  | 0 => []
  | k + 1 => m.read a :: Memory.readBytes m (a + 1) k

/-- Stores bytes at ascending addresses from `a`. -/
def Memory.writeBytes (m : Memory) (a : Nat) : List Byte → Memory
  | [] => m
  | b :: bs => Memory.writeBytes (m.write a b) (a + 1) bs

/-- The canonical form: addresses strictly rise, lie in the memory, and no cell holds what an unlisted
address reads as. -/
abbrev Memory.wf (m : Memory) : Prop :=
  m.Pairwise (fun c d => c.1 < d.1) ∧ ∀ c ∈ m, c.1 < Config.memSize ∧ c.2 ≠ Memory.initial c.1

/-- The bounds check of the `len` addresses from `base` (R65, R69): the lowest offending address, if any.
The addresses are natural numbers, never reduced. -/
def rangeFault (base len : Nat) : Option Nat :=
  if 0 < len ∧ Config.memSize < base + len then some (max base Config.memSize) else none

/-! Registers. -/

/-- `V[x] <- b` (R21). -/
def State.writeReg (s : State) (x : Reg) (b : Byte) : State := { s with v := s.v.set x.val b x.isLt }

/-- Loads bytes into consecutive registers from number `k` upward. -/
def regsFrom (v : Vector Byte 16) (k : Nat) : List Byte → Vector Byte 16
  | [] => v
  | b :: bs => regsFrom (v.setIfInBounds k b) (k + 1) bs

/-- `V[0], V[1], ...` from a list of bytes. -/
def State.loadRegs (s : State) (bs : List Byte) : State := { s with v := regsFrom s.v 0 bs }

/-- `I <- w` (R23). -/
def State.setI (s : State) (w : Word) : State := { s with i := w }

/-- `DT <- b` (R28). -/
def State.setDt (s : State) (b : Byte) : State := { s with dt := b }

/-- `ST <- b` (R29). -/
def State.setSt (s : State) (b : Byte) : State := { s with st := b }

/-- `MEM <- m`. -/
def State.setMem (s : State) (m : Memory) : State := { s with mem := m }

/-! Program counter. -/

/-- `next(a)` (40_step_cycle.md R123): the fetch advance, which alone wraps. -/
def nextPc (a : Word) : Word := if Config.memSize ≤ a.toNat + 2 then BitVec.ofNat 16 Config.progStart else a + 2

/-- `PC <- next(PC)` (R123). -/
def State.advance (s : State) : State := { s with pc := nextPc s.pc }

/-- `PC <- target`. -/
def State.setPc (s : State) (w : Word) : State := { s with pc := w }

/-- "Skip next instruction" when the condition holds (41_control_flow.md R148): `PC <- PC + 2`, not wrapped. -/
def State.skipIf (s : State) (c : Bool) : State := { s with pc := if c then s.pc + 2 else s.pc }

/-! Stack (10_state.md R26, R27). -/

/-- `SP` as the spec's integer. -/
def StackPtr.toInt : StackPtr → Int
  | .full => -1
  | .slot j => j.val

/-- The slot below `j`, after a push into `j`. -/
def StackPtr.below (j : Fin 16) : StackPtr :=
  if j = 0 then .full else .slot (j - 1)

/-- The slot a return pops, one toward the top; `none` when the stack is empty (R140). -/
def StackPtr.popSlot : StackPtr → Option (Fin 16)
  | .full => some 0
  | .slot j => if j = 15 then none else some (j + 1)

/-- `STACK[SP] <- PC; SP <- SP - 1` with `SP` = `j` (41_control_flow.md R142). -/
def State.push (s : State) (j : Fin 16) : State :=
  { s with stack := s.stack.set j.val s.pc j.isLt, sp := StackPtr.below j }

/-- `SP <- j; PC <- STACK[SP]` (R140). The slot keeps its value (R26). -/
def State.pop (s : State) (j : Fin 16) : State := { s with sp := .slot j, pc := s.stack[j] }

/-! Events (00_scope.md R10, R12) and the adapters' reference models (44_display.md R210, 10_state.md R41). -/

/-- The grid with every pixel off. -/
def Grid.blank : Grid := Vector.replicate 32 (Vector.replicate 64 false)

/-- `FB[y][x]` inverted. -/
def Grid.toggle (g : Grid) (x : Fin 64) (y : Fin 32) : Grid :=
  g.set y.val (g[y].set x.val (!g[y][x]) x.isLt) y.isLt

/-- What an event does to `FB` (R40). -/
def Event.onGrid : Event → Grid → Grid
  | .toggle x y, g => g.toggle x y
  | .clear, _ => Grid.blank
  | .render, g => g
  | .startTone, g => g
  | .stopTone, g => g
  | .diagUnrecognized _ _, g => g
  | .diagFault _ _ _, g => g

/-- What an event does to `TONE` (R41). -/
def Event.onTone : Event → Bool → Bool
  | .startTone, _ => true
  | .stopTone, _ => false
  | .toggle _ _, t => t
  | .clear, t => t
  | .render, t => t
  | .diagUnrecognized _ _, t => t
  | .diagFault _ _ _, t => t

/-- `emit e` (R12): append the event and apply its adapter effect. -/
def State.emit (s : State) (e : Event) : State :=
  { s with fb := e.onGrid s.fb, tone := e.onTone s.tone, trace := s.trace ++ [e] }

/-- `togglePixel(x, y)` (R210): the state after, and whether the pixel went from on to off. -/
def State.togglePixel (s : State) (x : Fin 64) (y : Fin 32) : State × Bool :=
  (s.emit (.toggle x y), s.fb[y][x])

/-- `togglePixel` for each pixel in order; the answer is whether any went from on to off. -/
def State.togglePixels (s : State) : List (Fin 64 × Fin 32) → State × Bool
  | [] => (s, false)
  | (x, y) :: rest =>
    let r := State.togglePixels (s.togglePixel x y).1 rest
    (r.1, (s.togglePixel x y).2 || r.2)

/-! Keypad (10_state.md R30, R31). -/

/-- `isPressed(k)` (45_keypad_timers.md R226): no masking, 16 and above is never pressed. -/
def isPressed (keys : BitVec 16) (k : Byte) : Bool := decide (k.toNat ≤ 15) && keys.getLsbD k.toNat

/-- `WAIT <- 1; WAITREG <- x` (R223). -/
def State.arm (s : State) (x : Reg) : State := { s with wait := true, waitReg := x }

/-! The random draw (42_alu.md R173). -/

/-- `draw8()`: a byte nothing constrains, fresh at every draw (log entry 1). -/
def State.draw8 (s : State) : Byte × State := (Config.randomByte s.draws, { s with draws := s.draws + 1 })

/-! Fetch (40_step_cycle.md R122). -/

/-- What a fetch gives: the opcode, or the offending address. -/
inductive Fetched where
  | word (op : Word)
  | outside (a : Nat)
  deriving DecidableEq, Repr

/-- `Fetch(PC)` (R122): two consecutive bytes, each bounds-checked, the lower address first. -/
def State.fetch (s : State) : Fetched :=
  if Config.memSize ≤ s.pc.toNat then .outside s.pc.toNat
  else if Config.memSize ≤ s.pc.toNat + 1 then .outside (s.pc.toNat + 1)
  else .word (wordOfBytes (s.mem.read s.pc.toNat) (s.mem.read (s.pc.toNat + 1)))

/-! Taking a fault (60_exceptions.md R244). There is no return from one (R245, R249). -/

/-- `FAULT.cause` as the code of R241. -/
def Cause.code : Cause → Nat
  | .noFault => 0
  | .fetchBounds => 1
  | .dataReadBounds => 2
  | .dataWriteBounds => 3
  | .stackOverflow => 4
  | .stackUnderflow => 5

/-- `raise C(info)` (R244), applied to the state at the start of the `Step()`, so that every change and
event of the step is discarded: only `FAULT` is written, and one diagnostic emitted. -/
def State.raise (s : State) (c : Cause) (info : Nat) : State :=
  { s with fault := { cause := c, pc := s.pc, info := info }, trace := s.trace ++ [.diagFault c s.pc info] }

/-- `Unrecognized(op)` (40_step_cycle.md R126): the advance and one diagnostic. -/
def State.unrecognized (s : State) (op : Word) : State := s.advance.emit (.diagUnrecognized op s.pc)

end Sys2Proof.Machine
end

