-- ==== Sys2Proof/Machine/Operands.lean ====
section
/-! DEFINITION. Machine/Operands.lean: every operand form (30_encoding.md R93, 43_index_memory.md R196,
44_display.md R213). A register operand is direct, `V[x]`; an immediate `nn` is used as cut. -/

namespace Sys2Proof.Machine

/-- `nnn` as an address: zero extension, the only extension there is (R93). -/
def addrOf (nnn : Addr12) : Word := nnn.setWidth 16

/-- `V[0] + nnn` (41_control_flow.md R147): at most 0x10FE, so 16 bits never overflow. -/
def indexedTarget (v0 : Byte) (nnn : Addr12) : Word := v0.setWidth 16 + nnn.setWidth 16

/-- The memory operand "at `I` plus offset" (R196): the effective address, a natural number. -/
def State.base (s : State) : Nat := s.i.toNat

/-- `5 * V[x]`, not masked (43_index_memory.md R192). -/
def glyphAddr (b : Byte) : Word := BitVec.ofNat 16 (Config.glyphStride * b.toNat)

/-- Hundreds, tens and ones of a byte (43_index_memory.md R193). -/
def bcdDigits (b : Byte) : List Byte :=
  [BitVec.ofNat 8 (b.toNat / 100), BitVec.ofNat 8 (b.toNat / 10 % 10), BitVec.ofNat 8 (b.toNat % 10)]

/-- `V[0..x]`, the registers a bulk store moves (43_index_memory.md R194). -/
def State.regsUpTo (s : State) (x : Reg) : List Byte := s.v.toList.take (x.val + 1)

/-- The pixels of one sprite row that is drawn with its left edge at column `px`: the columns whose bit is 1,
left to right, bit 7 leftmost (R213), each column reduced mod 64 (44_display.md R212). -/
def rowPixels (px : Nat) (y : Fin 32) (b : Byte) : List (Fin 64 × Fin 32) :=
  (List.range 8).filterMap fun c => if b.getLsbD (7 - c) then some (Fin.ofNat 64 (px + c), y) else none

/-- The pixels of a sprite's rows from row `r` downward, each row reduced mod 32 (R212). -/
def spritePixels (px py r : Nat) : List Byte → List (Fin 64 × Fin 32)
  | [] => []
  | b :: bs => rowPixels px (Fin.ofNat 32 (py + r)) b ++ spritePixels px py (r + 1) bs

end Sys2Proof.Machine
end

