-- ==== Sys2Proof/Machine/Flags.lean ====
section
/-! DEFINITION. Machine/Flags.lean: every computation of VF (10_state.md R22, 42_alu.md R172). -/

namespace Sys2Proof.Machine

/-- The number of VF. -/
abbrev vf : Reg := 15

/-- A flag is exactly 0 or 1 (R22). -/
def flagByte (b : Bool) : Byte := if b then 1 else 0

/-- Addition (R166): 1 exactly when the true sum exceeds 255. -/
def carryFlag (p q : Byte) : Byte := flagByte (decide (255 < p.toNat + q.toNat))

/-- Subtraction `p - q` (R167, R169): 0 exactly when a borrow occurs. -/
def notBorrowFlag (p q : Byte) : Byte := flagByte (decide (q.toNat ≤ p.toNat))

/-- Shift right (R168): the bit shifted out. -/
def shrFlag (p : Byte) : Byte := flagByte (p.getLsbD 0)

/-- Shift left (R170): the bit shifted out, as 0 or 1. -/
def shlFlag (p : Byte) : Byte := flagByte (p.getLsbD 7)

/-- The order of writes of a flag-writing instruction (R171): the result, then the flag. -/
def State.writeWithFlag (s : State) (x : Reg) (result flag : Byte) : State :=
  (s.writeReg x result).writeReg vf flag

end Sys2Proof.Machine
end

