-- ==== Sys2Proof/Machine/Alu.lean ====
section
/-! DEFINITION. Machine/Alu.lean: 42_alu.md. All operands are read from the state before the step; the result is
written to `V[x]`, the flag last (R171). -/

namespace Sys2Proof.Machine

/-- `LD Vx, nn` (R160). -/
def execLdImm (x : Reg) (nn : Byte) (s : State) : Host.Outcome State Fault Refusal :=
  .next (s.advance.writeReg x nn)

/-- `ADD Vx, nn` (R161): wraps, no flag. -/
def execAddImm (x : Reg) (nn : Byte) (s : State) : Host.Outcome State Fault Refusal :=
  .next (s.advance.writeReg x (s.v[x] + nn))

/-- `LD Vx, Vy` (R162). -/
def execLdReg (x y : Reg) (s : State) : Host.Outcome State Fault Refusal :=
  .next (s.advance.writeReg x s.v[y])

/-- `OR Vx, Vy` (R163). -/
def execOrReg (x y : Reg) (s : State) : Host.Outcome State Fault Refusal :=
  .next (s.advance.writeReg x (s.v[x] ||| s.v[y]))

/-- `AND Vx, Vy` (R164). -/
def execAndReg (x y : Reg) (s : State) : Host.Outcome State Fault Refusal :=
  .next (s.advance.writeReg x (s.v[x] &&& s.v[y]))

/-- `XOR Vx, Vy` (R165). -/
def execXorReg (x y : Reg) (s : State) : Host.Outcome State Fault Refusal :=
  .next (s.advance.writeReg x (s.v[x] ^^^ s.v[y]))

/-- `ADD Vx, Vy` (R166). -/
def execAddReg (x y : Reg) (s : State) : Host.Outcome State Fault Refusal :=
  .next (s.advance.writeWithFlag x (s.v[x] + s.v[y]) (carryFlag s.v[x] s.v[y]))

/-- `SUB Vx, Vy` (R167). -/
def execSubReg (x y : Reg) (s : State) : Host.Outcome State Fault Refusal :=
  .next (s.advance.writeWithFlag x (s.v[x] - s.v[y]) (notBorrowFlag s.v[x] s.v[y]))

/-- `SHR Vx` (R168): in place; `y` is not used. -/
def execShr (x _y : Reg) (s : State) : Host.Outcome State Fault Refusal :=
  .next (s.advance.writeWithFlag x (s.v[x] >>> 1) (shrFlag s.v[x]))

/-- `SUBN Vx, Vy` (R169). -/
def execSubnReg (x y : Reg) (s : State) : Host.Outcome State Fault Refusal :=
  .next (s.advance.writeWithFlag x (s.v[y] - s.v[x]) (notBorrowFlag s.v[y] s.v[x]))

/-- `SHL Vx` (R170): in place; `y` is not used. -/
def execShl (x _y : Reg) (s : State) : Host.Outcome State Fault Refusal :=
  .next (s.advance.writeWithFlag x (s.v[x] <<< 1) (shlFlag s.v[x]))

/-- `RND Vx, nn` (R173). -/
def execRnd (x : Reg) (nn : Byte) (s : State) : Host.Outcome State Fault Refusal :=
  .next (s.advance.draw8.2.writeReg x (s.advance.draw8.1 &&& nn))

end Sys2Proof.Machine
end

