-- ==== Sys2Proof/Machine/ControlFlow.lean ====
section
/-! DEFINITION. Machine/ControlFlow.lean: 41_control_flow.md. Every meaning takes the state whose `PC` is the
address `a` the instruction was fetched from; it advances to `next(a)` itself (40_step_cycle.md R123, R124), so
that a fault leaves `PC` at `a` (R125). -/

namespace Sys2Proof.Machine

/-- `RET` (R140). -/
def execRet (s : State) : Host.Outcome State Fault Refusal :=
  match s.sp.popSlot with
  | none => .next (s.raise .stackUnderflow (encode .ret).toNat)
  | some j => .next (s.advance.pop j)

/-- `JP nnn` (R141). -/
def execJp (nnn : Addr12) (s : State) : Host.Outcome State Fault Refusal :=
  .next (s.advance.setPc (addrOf nnn))

/-- `CALL nnn` (R142). -/
def execCall (nnn : Addr12) (s : State) : Host.Outcome State Fault Refusal :=
  match s.sp with
  | .full => .next (s.raise .stackOverflow (encode (.call nnn)).toNat)
  | .slot j => .next ((s.advance.push j).setPc (addrOf nnn))

/-- `SE Vx, nn` (R143). -/
def execSeImm (x : Reg) (nn : Byte) (s : State) : Host.Outcome State Fault Refusal :=
  .next (s.advance.skipIf (s.v[x] == nn))

/-- `SNE Vx, nn` (R144). -/
def execSneImm (x : Reg) (nn : Byte) (s : State) : Host.Outcome State Fault Refusal :=
  .next (s.advance.skipIf (s.v[x] != nn))

/-- `SE Vx, Vy` (R145); the low digit is ignored (30_encoding.md R95). -/
def execSeReg (x y : Reg) (_low : Nibble) (s : State) : Host.Outcome State Fault Refusal :=
  .next (s.advance.skipIf (s.v[x] == s.v[y]))

/-- `SNE Vx, Vy` (R146); the low digit is ignored (R95). -/
def execSneReg (x y : Reg) (_low : Nibble) (s : State) : Host.Outcome State Fault Refusal :=
  .next (s.advance.skipIf (s.v[x] != s.v[y]))

/-- `JP V0, nnn` (R147). -/
def execJpV0 (nnn : Addr12) (s : State) : Host.Outcome State Fault Refusal :=
  .next (s.advance.setPc (indexedTarget s.v[0] nnn))

end Sys2Proof.Machine
end

