-- ==== Sys2Proof/Machine/Display.lean ====
section
/-! DEFINITION. Machine/Display.lean: 44_display.md. -/

namespace Sys2Proof.Machine

/-- `CLS` (R211): one `Clear`, no `Render`. -/
def execCls (s : State) : Host.Outcome State Fault Refusal :=
  .next (s.advance.emit .clear)

/-- The sprite of `DRW Vx, Vy, n` (R212): its lit pixels in the order they are toggled. The coordinates are
the registers' values before VF is written. -/
def State.spriteOf (s : State) (x y : Reg) (n : Nibble) : List (Fin 64 × Fin 32) :=
  spritePixels s.v[x].toNat s.v[y].toNat 0 (s.mem.readBytes s.base n.toNat)

/-- `DRW Vx, Vy, n` (R212): toggles, then VF, then one `Render`. -/
def execDrw (x y : Reg) (n : Nibble) (s : State) : Host.Outcome State Fault Refusal :=
  match rangeFault s.base n.toNat with
  | some a => .next (s.raise .dataReadBounds a)
  | none =>
    .next (((s.advance.togglePixels (s.spriteOf x y n)).1.writeReg vf
      (flagByte (s.advance.togglePixels (s.spriteOf x y n)).2)).emit .render)

end Sys2Proof.Machine
end

