-- ==== Sys2Proof/Machine/IndexMemory.lean ====
section
/-! DEFINITION. Machine/IndexMemory.lean: 43_index_memory.md. A load or store checks its whole range first
(20_memory.md R69) and never changes `I` (R196). -/

namespace Sys2Proof.Machine

/-- `LD I, nnn` (R190). -/
def execLdI (nnn : Addr12) (s : State) : Host.Outcome State Fault Refusal :=
  .next (s.advance.setI (addrOf nnn))

/-- `ADD I, Vx` (R191): wraps at 65536, no flag, no fault. -/
def execAddI (x : Reg) (s : State) : Host.Outcome State Fault Refusal :=
  .next (s.advance.setI (s.i + s.v[x].setWidth 16))

/-- `LD F, Vx` (R192). -/
def execLdF (x : Reg) (s : State) : Host.Outcome State Fault Refusal :=
  .next (s.advance.setI (glyphAddr s.v[x]))

/-- `LD B, Vx` (R193). -/
def execLdB (x : Reg) (s : State) : Host.Outcome State Fault Refusal :=
  match rangeFault s.base 3 with
  | some a => .next (s.raise .dataWriteBounds a)
  | none => .next (s.advance.setMem (s.mem.writeBytes s.base (bcdDigits s.v[x])))

/-- `LD [I], Vx` (R194). -/
def execStRegs (x : Reg) (s : State) : Host.Outcome State Fault Refusal :=
  match rangeFault s.base (x.val + 1) with
  | some a => .next (s.raise .dataWriteBounds a)
  | none => .next (s.advance.setMem (s.mem.writeBytes s.base (s.regsUpTo x)))

/-- `LD Vx, [I]` (R195). -/
def execLdRegs (x : Reg) (s : State) : Host.Outcome State Fault Refusal :=
  match rangeFault s.base (x.val + 1) with
  | some a => .next (s.raise .dataReadBounds a)
  | none => .next (s.advance.loadRegs (s.mem.readBytes s.base (x.val + 1)))

end Sys2Proof.Machine
end

