-- ==== Sys2Proof/Machine/KeypadTimers.lean ====
section
/-! DEFINITION. Machine/KeypadTimers.lean: 45_keypad_timers.md. -/

namespace Sys2Proof.Machine

/-- `SKP Vx` (R220). -/
def execSkp (x : Reg) (s : State) : Host.Outcome State Fault Refusal :=
  .next (s.advance.skipIf (isPressed s.keys s.v[x]))

/-- `SKNP Vx` (R221). -/
def execSknp (x : Reg) (s : State) : Host.Outcome State Fault Refusal :=
  .next (s.advance.skipIf (!isPressed s.keys s.v[x]))

/-- `LD Vx, DT` (R222). -/
def execLdVxDt (x : Reg) (s : State) : Host.Outcome State Fault Refusal :=
  .next (s.advance.writeReg x s.dt)

/-- `LD Vx, K` (R223): arms the latch; `KeyDown` writes the register. -/
def execLdVxK (x : Reg) (s : State) : Host.Outcome State Fault Refusal :=
  .next (s.advance.arm x)

/-- `LD DT, Vx` (R224). -/
def execLdDtVx (x : Reg) (s : State) : Host.Outcome State Fault Refusal :=
  .next (s.advance.setDt s.v[x])

/-- `LD ST, Vx` (R225): starts the tone when the value is not 0. -/
def execLdStVx (x : Reg) (s : State) : Host.Outcome State Fault Refusal :=
  .next (if s.v[x] = 0 then s.advance.setSt s.v[x] else (s.advance.setSt s.v[x]).emit .startTone)

end Sys2Proof.Machine
end

