-- ==== Sys2Proof/Machine/Step.lean ====
section
/-! DEFINITION. Machine/Step.lean: the operation `Step()` (40_step_cycle.md R120), and the host's way to place an
instruction where it fetches. -/

namespace Sys2Proof.Machine

/-- `Step()` (R120): the two gates (R121), the fetch (R122), and the instruction or the no-operation of an
unrecognized word (R124, R126). -/
def step (s : State) : Host.Outcome State Fault Refusal :=
  if s.fault.cause ≠ .noFault then .next s
  else if s.wait = true then .next s
  else
    match s.fetch with
    | .outside a => .next (s.raise .fetchBounds a)
    | .word op =>
      match decode op with
      | .instr i => exec i s
      | .unrecognized _ => .next (s.unrecognized op)

/-- `s` with a table word stored where `step` fetches its next instruction. From a state whose step would not
fetch at all, it also opens the gates of R121 and puts `PC` at the program start (log entry 7); from reset it
changes memory alone. -/
def State.withFetchWord (s : State) (nbits w : Nat) : State :=
  let pc : Word := if s.pc.toNat + 1 < Config.memSize then s.pc else BitVec.ofNat 16 Config.progStart
  let b := bytesOfWord (tableWord nbits w)
  { s with
    pc := pc
    mem := s.mem.writeBytes pc.toNat [b.1, b.2]
    wait := false
    fault := { s.fault with cause := .noFault } }

end Sys2Proof.Machine
end

