-- ==== Sys2Proof/Machine/External.lean ====
section
/-! DEFINITION. Machine/External.lean: the operations of the agents outside the core, `Tick()`, `KeyDown(p)`,
`KeyUp(p)` (60_exceptions.md), `Reset()`, `LoadROM(rom)` (70_reset_and_hazards.md), and the labelled transition
system of 00_scope.md R9. -/

namespace Sys2Proof.Machine

/-- One countdown (R252): a timer at 0 stays at 0. -/
def countDown (b : Byte) : Byte := if b = 0 then 0 else b - 1

/-- The sound half of `Tick()` (R252): `StopTone` in the tick that takes `ST` from 1 to 0, or when `ST` is
already 0 and a tone still sounds. -/
def State.tickSound (s : State) : State :=
  if s.st ≠ 0 then
    if countDown s.st = 0 then (s.setSt (countDown s.st)).emit .stopTone else s.setSt (countDown s.st)
  else if s.tone = true then s.emit .stopTone else s

/-- `Tick()` (R252). -/
def State.tick (s : State) : State := (s.setDt (countDown s.dt)).tickSound

/-- `KEYMAP(p)` (R255): the logical key whose code is `p`, if any. -/
def keyOf (P : Config.Params) (p : Nat) : Option Key := (List.finRange 16).find? fun k => P.keyCodes[k] == p

/-- The pressed set with key `k` in it. -/
def pressKey (keys : BitVec 16) (k : Key) : BitVec 16 := keys ||| (1#16 <<< k.val)

/-- The pressed set without key `k`. -/
def releaseKey (keys : BitVec 16) (k : Key) : BitVec 16 := keys &&& ~~~(1#16 <<< k.val)

/-- An armed latch takes the key (R256): `V[WAITREG] <- k; WAIT <- 0`. -/
def State.resolveWait (s : State) (k : Key) : State :=
  if s.wait = true then { s.writeReg s.waitReg (BitVec.ofNat 8 k.val) with wait := false } else s

/-- `KeyDown(p)` (R256). -/
def State.keyDown (P : Config.Params) (p : Nat) (s : State) : State :=
  match keyOf P p with
  | none => s
  | some k => State.resolveWait { s with keys := pressKey s.keys k } k

/-- `KeyUp(p)` (R257). -/
def State.keyUp (P : Config.Params) (p : Nat) (s : State) : State :=
  match keyOf P p with
  | none => s
  | some k => { s with keys := releaseKey s.keys k }

/-- The memory after `Reset()` (R280): `FONT` at 0 to 79, 0 elsewhere. -/
def Memory.afterReset (P : Config.Params) : Memory := Memory.writeBytes [] 0 P.font.toList

/-- `Reset()` (R280). `TONE` is not written (10_state.md R41), the trace is not erased (R42) and gains one
`Clear`; the model's draw counter goes on, so that no draw repeats. -/
def State.resetOp (P : Config.Params) (s : State) : State :=
  { State.reset with
    mem := Memory.afterReset P, tone := s.tone, fb := s.fb, trace := s.trace, draws := s.draws : State }.emit .clear

/-- `LoadROM(rom)` (R282): `Reset()`, then at most 3232 bytes from 0x200 upward. -/
def State.loadRom (P : Config.Params) (rom : List Byte) (s : State) : State :=
  (s.resetOp P).setMem ((s.resetOp P).mem.writeBytes Config.progStart (rom.take Config.progCap))

/-- The six labels of R9. -/
inductive Op where
  | step
  | tick
  | keyDown (p : Nat)
  | keyUp (p : Nat)
  | reset
  | loadRom (rom : List Byte)
  deriving DecidableEq, Repr

/-- One atomic operation (R9, R262). -/
def runOp (P : Config.Params) (o : Op) (s : State) : Host.Outcome State Fault Refusal :=
  match o with
  | .step => step s
  | .tick => .next s.tick
  | .keyDown p => .next (s.keyDown P p)
  | .keyUp p => .next (s.keyUp P p)
  | .reset => .next (s.resetOp P)
  | .loadRom rom => .next (s.loadRom P rom)

/-- A schedule of operations, in order; every interleaving of the agents is one such list (R9, R247). -/
def runOps (P : Config.Params) (ops : List Op) (s : State) : Host.Outcome State Fault Refusal :=
  match ops with
  | [] => .next s
  | o :: rest =>
    match runOp P o s with
    | .next t => runOps P rest t
    | .fault r => .fault r
    | .refused r => .refused r

end Sys2Proof.Machine
end

