-- ==== Sys2Proof/Safety.lean ====
section
/-! DEFINITION. Safety.lean: the terms claims are stated in: what a safe run is, what an instruction leaves
unchanged, the machine's invariant, and a sprite's pixels said pointwise. -/

namespace Sys2Proof.Machine

/-- A state that has not gone wrong (60_exceptions.md R245): no fault is latched. -/
abbrev State.Safe (s : State) : Prop := s.fault.cause = .noFault

/-- A state whose next `Step()` fetches (40_step_cycle.md R121): neither halted nor waiting for a key. -/
abbrev State.Running (s : State) : Prop := s.fault.cause = .noFault ∧ s.wait = false

/-- A safe run: every operation answers a next state, and that state is safe. -/
def SafeRun (P : Config.Params) (ops : List Op) (s : State) : Prop :=
  match ops with
  | [] => s.Safe
  | o :: rest => s.Safe ∧ ∃ t, runOp P o s = .next t ∧ SafeRun P rest t

/-- Calls made one after another, each to its own address. -/
def callAll (targets : List Addr12) (s : State) : Host.Outcome State Fault Refusal :=
  match targets with
  | [] => .next s
  | nnn :: rest =>
    match exec (.call nnn) s with
    | .next t => callAll rest t
    | .fault r => .fault r
    | .refused r => .refused r

/-! Frames. -/

/-- The fields of `State`, as names. -/
inductive Field where
  | v | i | pc | stack | sp | dt | st | keys | wait | waitReg | mem | fault | fb | tone | trace | draws
  deriving DecidableEq, Repr

/-- The field is the same in both states. Memory is compared by what it reads, byte by byte. -/
def Field.Same (f : Field) (s t : State) : Prop :=
  match f with
  | .v => t.v = s.v
  | .i => t.i = s.i
  | .pc => t.pc = s.pc
  | .stack => t.stack = s.stack
  | .sp => t.sp = s.sp
  | .dt => t.dt = s.dt
  | .st => t.st = s.st
  | .keys => t.keys = s.keys
  | .wait => t.wait = s.wait
  | .waitReg => t.waitReg = s.waitReg
  | .mem => ∀ a, t.mem.read a = s.mem.read a
  | .fault => t.fault = s.fault
  | .fb => t.fb = s.fb
  | .tone => t.tone = s.tone
  | .trace => t.trace = s.trace
  | .draws => t.draws = s.draws

/-- Everything but the named fields is unchanged from `s` to `t`. -/
def Frame (changed : List Field) (s t : State) : Prop := ∀ f, f ∉ changed → f.Same s t

/-- `t` is what fault entry makes of `s` (60_exceptions.md R244): `FAULT` written, one diagnostic, and
nothing else. -/
def FaultEntry (c : Cause) (info : Nat) (s t : State) : Prop :=
  t.fault = { cause := c, pc := s.pc, info := info } ∧ t.trace = s.trace ++ [.diagFault c s.pc info] ∧
    Frame [.fault, .trace] s t

end Sys2Proof.Machine

namespace Sys2Proof

/-! The registers an instruction may write. -/

/-- The registers an instruction may write (10_state.md R21, R22): its destination, and VF for the six flag
writers. -/
def Instr.writes (i : Instr) (r : Reg) : Prop :=
  match i with
  | .ldImm x _ | .addImm x _ | .ldReg x _ | .orReg x _ | .andReg x _ | .xorReg x _ | .rnd x _
  | .ldVxDt x => r = x
  | .addReg x _ | .subReg x _ | .shr x _ | .subnReg x _ | .shl x _ => r = x ∨ r = 15
  | .drw _ _ _ => r = 15
  | .ldRegs x => r ≤ x
  | .cls | .ret | .jp _ | .call _ | .seImm _ _ | .sneImm _ _ | .seReg _ _ _ | .sneReg _ _ _ | .ldI _ | .jpV0 _
  | .skp _ | .sknp _ | .ldVxK _ | .ldDtVx _ | .ldStVx _ | .addI _ | .ldF _ | .ldB _ | .stRegs _ => False

/-- The fault an instruction may raise in execute (R127, R241), if any. -/
def Instr.mayRaise (i : Instr) : Option Machine.Cause :=
  match i with
  | .ret => some .stackUnderflow
  | .call _ => some .stackOverflow
  | .drw _ _ _ | .ldRegs _ => some .dataReadBounds
  | .ldB _ | .stRegs _ => some .dataWriteBounds
  | .cls | .jp _ | .seImm _ _ | .sneImm _ _ | .seReg _ _ _ | .ldImm _ _ | .addImm _ _ | .ldReg _ _ | .orReg _ _
  | .andReg _ _ | .xorReg _ _ | .addReg _ _ | .subReg _ _ | .shr _ _ | .subnReg _ _ | .shl _ _ | .sneReg _ _ _
  | .ldI _ | .jpV0 _ | .rnd _ _ | .skp _ | .sknp _ | .ldVxDt _ | .ldVxK _ | .ldDtVx _ | .ldStVx _ | .addI _
  | .ldF _ => none

end Sys2Proof

namespace Sys2Proof.Machine

/-! The machine's invariant. -/

/-- What holds in every reachable state (10_state.md R46 b, d, g), with the memory's canonical form and the bound
on stored return addresses that R46 (d) rests on (41_control_flow.md R140). -/
structure State.Inv (s : State) : Prop where
  /-- The memory is in canonical form, within 0 to 4095. -/
  mem : s.mem.wf
  /-- R46 (d). -/
  pc : s.pc.toNat ≤ 0x10FE
  /-- A stored return address is at most 0xFFF (R140). -/
  stack : ∀ j : Fin 16, s.stack[j].toNat ≤ 0xFFF
  /-- R46 (b). -/
  wait : s.wait = true → s.fault.cause = .noFault
  /-- R46 (g). -/
  tone : s.st ≠ 0 → s.tone = true

/-! A sprite, pixel by pixel. -/

/-- Whether the sprite of `DRW Vx, Vy, n` covers the pixel at column `X`, row `Y` with a 1 bit: the pixel's
offset from the sprite's corner, round the edges, names a row below `n` and a column below 8, and that bit of
the row's byte, bit 7 leftmost, is 1 (44_display.md R212, R213). -/
def State.spriteBit (s : State) (x y : Reg) (n : Nibble) (X : Fin 64) (Y : Fin 32) : Bool :=
  let c := (X.val + 64 - s.v[x].toNat % 64) % 64
  let r := (Y.val + 32 - s.v[y].toNat % 32) % 32
  decide (r < n.toNat) && decide (c < 8) && (s.mem.read (s.i.toNat + r)).getLsbD (7 - c)

/-- The `Toggle` events of `DRW Vx, Vy, n` in order: rows top to bottom, columns left to right, the 1 bits only
(R212). -/
def State.spriteToggles (s : State) (x y : Reg) (n : Nibble) : List Event :=
  (List.range n.toNat).flatMap fun r =>
    ((List.range 8).filter fun c => (s.mem.read (s.i.toNat + r)).getLsbD (7 - c)).map fun c =>
      .toggle (Fin.ofNat 64 (s.v[x].toNat + c)) (Fin.ofNat 32 (s.v[y].toNat + r))

end Sys2Proof.Machine
end

