-- ==== Sys2Proof/Certificates/Slice0/Obligations.lean ====
section
/-! DEFINITION. Certificates/Slice0/Obligations.lean: the statements for the provers. Each is about every state, not
only those a run reaches; a frame (`Frame [fields] s t`) says that every field not named is unchanged, memory byte by
byte. -/

open Sys2Proof Sys2Proof.Machine

/-! ## Encoding (30_encoding.md) -/

/-- Sanity: words written out from the opcode map, one or more for each family, decode to their instruction (R96). -/
def Obligations.SampleWordsDecode : Prop :=
  decode 0x00EE#16 = .instr .ret ∧ decode 0x22BC#16 = .instr (.call 0x2BC#12) ∧
    decode 0x4A07#16 = .instr (.sneImm 10 0x07#8) ∧ decode 0x5127#16 = .instr (.seReg 1 2 0x7#4) ∧
    decode 0x8F15#16 = .instr (.subReg 15 1) ∧ decode 0x83AE#16 = .instr (.shl 3 10) ∧
    decode 0xC30F#16 = .instr (.rnd 3 0x0F#8) ∧ decode 0xA20E#16 = .instr (.ldI 0x20E#12) ∧
    decode 0xF233#16 = .instr (.ldB 2) ∧ decode 0xD12F#16 = .instr (.drw 1 2 0xF#4) ∧
    decode 0xE39E#16 = .instr (.skp 3) ∧ decode 0xF40A#16 = .instr (.ldVxK 4) ∧
    decode 0x0000#16 = .unrecognized .category0

/-- Decoding the bytes of an encoded instruction gives it back, every field at every value (R64, R91, R96). That
the bits an instruction ignores are fields too is the model's choice (log entry 14). -/
def Obligations.DecodeOfEncode : Prop :=
  ∀ i : Instr, decodeBytes (bytesOfWord (encode i)).1 (bytesOfWord (encode i)).2 = .instr i

/-- A recognized word is the word of the instruction it decodes to: decoding drops no bit, and distinct words decode to
distinct instructions. This is the model's choice (log entry 14), not the spec's words: the syntax keeps the bits an
instruction ignores as fields, the low digit of 5xyN and 9xyN and the `y` of SHR and SHL, so that terms which execute
alike are kept apart. -/
def Obligations.EncodeOfDecode : Prop :=
  ∀ (w : Word) (i : Instr), decode w = .instr i → encode i = w

/-- A word selects a row of the opcode map exactly when `w & mask` = `match`; the row selected is the row of the
instruction decoded, no word selects two rows, and an unrecognized word selects none (R94, R96, R97). -/
def Obligations.RowsSelectWords : Prop :=
  (∀ (w : Word) (i : Instr), decode w = .instr i →
      ∀ j : Instr, w &&& j.row.2 = j.row.1 ↔ j.row = i.row) ∧
    ∀ (w : Word) (g : Unrecognized), decode w = .unrecognized g → ∀ j : Instr, w &&& j.row.2 ≠ j.row.1

/-- The unrecognized words are exactly the four groups of R97. -/
def Obligations.UnrecognizedGroups : Prop :=
  ∀ w : Word,
    (decode w = .unrecognized .category0 ↔ w.toNat / 4096 = 0 ∧ w.toNat % 4096 ≠ 0x0E0 ∧ w.toNat % 4096 ≠ 0x0EE) ∧
    (decode w = .unrecognized .category8 ↔ w.toNat / 4096 = 8 ∧ w.toNat % 16 ∈ [8, 9, 0xA, 0xB, 0xC, 0xD, 0xF]) ∧
    (decode w = .unrecognized .categoryE ↔ w.toNat / 4096 = 0xE ∧ w.toNat % 256 ∉ [0x9E, 0xA1]) ∧
    (decode w = .unrecognized .categoryF ↔ w.toNat / 4096 = 0xF ∧
      w.toNat % 256 ∉ [0x07, 0x0A, 0x15, 0x18, 0x1E, 0x29, 0x33, 0x55, 0x65])

/-- Categories 5 and 9 ignore bits 3..0: every low digit decodes to the same instruction, which does the same; the row's mask is 0xF000, and
the canonical spelling has 0 (R95; the spec's decision D7). -/
def Obligations.LowDigitIgnored : Prop :=
  (∀ x y low, (Instr.seReg x y low).row = (0x5000#16, 0xF000#16) ∧ ((Instr.seReg x y low).wellFormed = true ↔ low = 0) ∧
    (Instr.sneReg x y low).row = (0x9000#16, 0xF000#16) ∧ ((Instr.sneReg x y low).wellFormed = true ↔ low = 0)) ∧
  ∀ (w : Word) (s : State),
    (w.toNat / 4096 = 5 → ∃ x y low, decode w = .instr (.seReg x y low) ∧
      exec (.seReg x y low) s = exec (.seReg x y 0) s ∧ x.val = w.toNat / 256 % 16 ∧ y.val = w.toNat / 16 % 16) ∧
    (w.toNat / 4096 = 9 → ∃ x y low, decode w = .instr (.sneReg x y low) ∧
      exec (.sneReg x y low) s = exec (.sneReg x y 0) s ∧ x.val = w.toNat / 256 % 16 ∧ y.val = w.toNat / 16 % 16)

/-! ## The step cycle (40_step_cycle.md) and faults (60_exceptions.md) -/

/-- When the bytes at `PC` decode to an instruction, an unblocked step is that instruction's execution: nothing
else is added around it (R120, R124). The advance of R123 is part of the execution. -/
def Obligations.StepRunsDecodedInstruction : Prop :=
  ∀ (s : State) (i : Instr), s.Running → s.pc.toNat ≤ 4094 →
    decodeBytes (s.mem.read s.pc.toNat) (s.mem.read (s.pc.toNat + 1)) = .instr i → step s = exec i s

/-- An unrecognized word is a no-operation with one diagnostic, `PC` advanced (R126). -/
def Obligations.UnrecognizedWordIsNoOperation : Prop :=
  ∀ (s : State) (g : Unrecognized), s.Running → s.pc.toNat ≤ 4094 →
    decodeBytes (s.mem.read s.pc.toNat) (s.mem.read (s.pc.toNat + 1)) = .unrecognized g →
    ∃ t, step s = .next t ∧ t.pc = nextPc s.pc ∧
      t.trace = s.trace ++
        [.diagUnrecognized (wordOfBytes (s.mem.read s.pc.toNat) (s.mem.read (s.pc.toNat + 1))) s.pc] ∧
      Frame [.pc, .trace] s t

/-- A halted core and a core waiting for a key do nothing at a step: no state change, no event (R121; the
spec's decision D1). -/
def Obligations.BlockedStepChangesNothing : Prop :=
  ∀ s : State, s.fault.cause ≠ .noFault ∨ s.wait = true → step s = .next s

/-- A fetch succeeds exactly at 4094 and below, and reads two bytes, high byte first; at 4095 or above the step raises
`FetchBounds` with the first address that is 4096 or more, and changes nothing but `FAULT` and the trace
(R122; the spec's decision D6). -/
def Obligations.FetchReadsOrFaults : Prop :=
  ∀ s : State,
    (s.pc.toNat ≤ 4094 → ∃ op, s.fetch = .word op ∧
      op.toNat = (s.mem.read s.pc.toNat).toNat * 256 + (s.mem.read (s.pc.toNat + 1)).toNat) ∧
    (4095 ≤ s.pc.toNat → s.Running → ∃ t, step s = .next t ∧
      FaultEntry .fetchBounds (if 4096 ≤ s.pc.toNat then s.pc.toNat else 4096) s t)

/-- The fetch advance, and its wrap from 0xFFE to 0x200 (R123). -/
def Obligations.FetchAdvanceWraps : Prop :=
  ∀ a : Word, (nextPc a).toNat = (if a.toNat + 2 ≥ 4096 then 0x200 else a.toNat + 2) ∧ (nextPc a).toNat ≤ 0xFFF

/-- Every step, from any state at all, answers a next state: nothing in this machine is stuck
(R127; 93_implementation_defined.md, Part 1). -/
def Obligations.StepAnswersNextState : Prop := ∀ s : State, ∃ t, step s = .next t

/-- Faults are precise: a step that latches a fault changes nothing but `FAULT` and the trace, `PC` still holds the
faulting instruction's address and so does `FAULT.pc`; the fault is a fetch fault, or the one its instruction may
raise (R125, R244; R127, R241; the spec's decision D1). -/
def Obligations.FaultsArePrecise : Prop :=
  ∀ s t : State, s.Safe → step s = .next t → ¬ t.Safe →
    FaultEntry t.fault.cause t.fault.info s t ∧
      ((t.fault.cause = .fetchBounds ∧ 4095 ≤ s.pc.toNat) ∨
        ∃ i, decodeBytes (s.mem.read s.pc.toNat) (s.mem.read (s.pc.toNat + 1)) = .instr i ∧
          i.mayRaise = some t.fault.cause)

/-- An instruction that is not one of the six of R127 (5) never faults: in every state it answers a next state with the
`FAULT` latch as it was (R242). -/
def Obligations.OtherInstructionsNeverFault : Prop :=
  ∀ (i : Instr) (s : State), i.mayRaise = none → ∃ t, exec i s = .next t ∧ t.fault = s.fault

/-- A latched fault stays as it is under every operation but `Reset()` and `LoadROM()`, and meanwhile no step changes
anything (R245; R46 c). -/
def Obligations.HaltedUntilReset : Prop :=
  ∀ (P : Config.Params) (ops : List Op) (s : State), s.fault.cause ≠ .noFault →
    (∀ o ∈ ops, o ≠ .reset ∧ ∀ rom, o ≠ .loadRom rom) →
    ∃ t, runOps P ops s = .next t ∧ t.fault = s.fault ∧ step t = .next t ∧ t.pc = s.pc ∧ t.i = s.i ∧ t.stack = s.stack ∧
      t.sp = s.sp ∧ ∀ a, t.mem.read a = s.mem.read a

/-! ## Control flow (41_control_flow.md) -/

/-- `RET` pops; with an empty stack it faults (R140). -/
def Obligations.ReturnPopsOrUnderflows : Prop :=
  ∀ s : State,
    (s.sp ≠ .slot 15 → ∃ t, exec .ret s = .next t ∧ t.sp.toInt = s.sp.toInt + 1 ∧
      (∃ j, t.sp = .slot j ∧ t.pc = s.stack[j]) ∧ Frame [.sp, .pc] s t) ∧
    (s.sp = .slot 15 → ∃ t, exec .ret s = .next t ∧ FaultEntry .stackUnderflow 0x00EE s t)

/-- `CALL` pushes the advanced `PC`; with a full stack it faults (R142; the spec's decision D3). -/
def Obligations.CallPushesOrOverflows : Prop :=
  ∀ (nnn : Addr12) (s : State),
    (∀ j, s.sp = .slot j → ∃ t, exec (.call nnn) s = .next t ∧ t.stack[j] = nextPc s.pc ∧
      (∀ k : Fin 16, k ≠ j → t.stack[k] = s.stack[k]) ∧ t.sp.toInt = s.sp.toInt - 1 ∧ t.pc.toNat = nnn.toNat ∧
      Frame [.stack, .sp, .pc] s t) ∧
    (s.sp = .full → ∃ t, exec (.call nnn) s = .next t ∧ FaultEntry .stackOverflow (0x2000 + nnn.toNat) s t)

/-- A call and then a return bring `PC` and `SP` back: `PC` to the address after the call (R140, R142). -/
def Obligations.CallThenReturn : Prop :=
  ∀ (nnn : Addr12) (s : State), s.sp ≠ .full →
    ∃ t u, exec (.call nnn) s = .next t ∧ exec .ret t = .next u ∧ u.pc = nextPc s.pc ∧ u.sp = s.sp ∧
      Frame [.pc, .stack] s u

/-- From an empty stack, up to 16 calls nest, `SP` counting down from 15 to -1; one call more raises
`StackOverflow` (R27, R142). -/
def Obligations.SixteenCallsNest : Prop :=
  ∀ (targets : List Addr12) (s : State), s.sp = .slot 15 → targets.length ≤ 16 →
    ∃ t, callAll targets s = .next t ∧ t.sp.toInt = 15 - (targets.length : Int) ∧ t.fault = s.fault ∧
      (targets.length = 16 → ∀ nnn, ∃ u, exec (.call nnn) t = .next u ∧ u.fault.cause = .stackOverflow)

/-- `JP nnn`: `PC` becomes `nnn`, any value, nothing else changes; from 0xFFF the next fetch faults (R141). -/
def Obligations.JumpGoesToAddress : Prop :=
  ∀ (nnn : Addr12) (s : State), ∃ t, exec (.jp nnn) s = .next t ∧ t.pc.toNat = nnn.toNat ∧ Frame [.pc] s t ∧
    (nnn = 0xFFF#12 → s.Running → ∃ u, step t = .next u ∧ u.fault.cause = .fetchBounds) ∧
    (nnn.toNat = s.pc.toNat → Frame [] s t)

/-- `JP V0, nnn`: `PC` becomes the unreduced sum; at 4095 or more the next fetch faults (R147; the spec's decision D5). -/
def Obligations.IndexedJumpAddsV0 : Prop :=
  ∀ (nnn : Addr12) (s : State), ∃ t, exec (.jpV0 nnn) s = .next t ∧ t.pc.toNat = s.v[0].toNat + nnn.toNat ∧
    Frame [.pc] s t ∧
    (4095 ≤ s.v[0].toNat + nnn.toNat → s.Running →
      ∃ u, step t = .next u ∧ FaultEntry .fetchBounds (max (s.v[0].toNat + nnn.toNat) 4096) t u)

/-- `SE Vx, nn` and `SNE Vx, nn`: when the condition holds, `PC` is 2 more than the advanced `PC`, not wrapped
(R143, R144; R148, the spec's decision D5). -/
def Obligations.ImmediateSkips : Prop :=
  ∀ (x : Reg) (nn : Byte) (s : State),
    (∃ t, exec (.seImm x nn) s = .next t ∧ Frame [.pc] s t ∧
      t.pc.toNat = (nextPc s.pc).toNat + if s.v[x] = nn then 2 else 0) ∧
    (∃ t, exec (.sneImm x nn) s = .next t ∧ Frame [.pc] s t ∧
      t.pc.toNat = (nextPc s.pc).toNat + if s.v[x] ≠ nn then 2 else 0)

/-- `SE Vx, Vy` and `SNE Vx, Vy`, whatever the low digit (R145, R146; the spec's decision D7). -/
def Obligations.RegisterSkips : Prop :=
  ∀ (x y : Reg) (low : Nibble) (s : State),
    (∃ t, exec (.seReg x y low) s = .next t ∧ Frame [.pc] s t ∧
      t.pc.toNat = (nextPc s.pc).toNat + if s.v[x] = s.v[y] then 2 else 0) ∧
    (∃ t, exec (.sneReg x y low) s = .next t ∧ Frame [.pc] s t ∧
      t.pc.toNat = (nextPc s.pc).toNat + if s.v[x] ≠ s.v[y] then 2 else 0)

/-! ## Arithmetic and logic (42_alu.md) -/

/-- `LD Vx, nn` and `ADD Vx, nn`: no flag, the sum wraps (R160, R161). -/
def Obligations.ImmediateLoadAndAdd : Prop :=
  ∀ (x : Reg) (nn : Byte) (s : State),
    (∃ t, exec (.ldImm x nn) s = .next t ∧ t.v[x] = nn ∧ (∀ r, r ≠ x → t.v[r] = s.v[r]) ∧ t.pc = nextPc s.pc ∧
      Frame [.v, .pc] s t) ∧
    (∃ t, exec (.addImm x nn) s = .next t ∧ t.v[x].toNat = (s.v[x].toNat + nn.toNat) % 256 ∧
      (∀ r, r ≠ x → t.v[r] = s.v[r]) ∧ t.pc = nextPc s.pc ∧ Frame [.v, .pc] s t)

/-- `LD`, `OR`, `AND`, `XOR` of two registers, bit by bit: no flag (R162 to R165; the spec's decision D10). -/
def Obligations.CopyAndLogic : Prop :=
  ∀ (x y : Reg) (s : State),
    (∃ t, exec (.ldReg x y) s = .next t ∧ t.v[x] = s.v[y] ∧ (∀ r, r ≠ x → t.v[r] = s.v[r]) ∧ t.pc = nextPc s.pc ∧
      Frame [.v, .pc] s t) ∧
    (∃ t, exec (.orReg x y) s = .next t ∧
      (∀ k, t.v[x].getLsbD k = (s.v[x].getLsbD k || s.v[y].getLsbD k)) ∧ (∀ r, r ≠ x → t.v[r] = s.v[r]) ∧
      t.pc = nextPc s.pc ∧ Frame [.v, .pc] s t) ∧
    (∃ t, exec (.andReg x y) s = .next t ∧
      (∀ k, t.v[x].getLsbD k = (s.v[x].getLsbD k && s.v[y].getLsbD k)) ∧ (∀ r, r ≠ x → t.v[r] = s.v[r]) ∧
      t.pc = nextPc s.pc ∧ Frame [.v, .pc] s t) ∧
    (∃ t, exec (.xorReg x y) s = .next t ∧
      (∀ k, t.v[x].getLsbD k = (s.v[x].getLsbD k != s.v[y].getLsbD k)) ∧ (∀ r, r ≠ x → t.v[r] = s.v[r]) ∧
      t.pc = nextPc s.pc ∧ Frame [.v, .pc] s t)

/-- `ADD Vx, Vy`: the sum mod 256, VF the carry, written last (R166; the spec's decisions D8, D9). -/
def Obligations.AddSetsCarry : Prop :=
  ∀ (x y : Reg) (s : State), ∃ t, exec (.addReg x y) s = .next t ∧
    (x ≠ 15 → t.v[x].toNat = (s.v[x].toNat + s.v[y].toNat) % 256) ∧
    t.v[15].toNat = (if s.v[x].toNat + s.v[y].toNat > 255 then 1 else 0) ∧
    (∀ r, r ≠ x → r ≠ 15 → t.v[r] = s.v[r]) ∧ t.pc = nextPc s.pc ∧ Frame [.v, .pc] s t

/-- `SUB` and `SUBN`: the difference mod 256, VF not borrow, so 1 for equal operands (R167, R169; the spec's
decisions D8, D9). -/
def Obligations.SubtractSetsNotBorrow : Prop :=
  ∀ (x y : Reg) (s : State),
    (∃ t, exec (.subReg x y) s = .next t ∧
      (x ≠ 15 → (t.v[x].toNat : Int) = ((s.v[x].toNat : Int) - s.v[y].toNat) % 256) ∧
      t.v[15].toNat = (if s.v[x].toNat ≥ s.v[y].toNat then 1 else 0) ∧
      (∀ r, r ≠ x → r ≠ 15 → t.v[r] = s.v[r]) ∧ t.pc = nextPc s.pc ∧ Frame [.v, .pc] s t) ∧
    (∃ t, exec (.subnReg x y) s = .next t ∧
      (x ≠ 15 → (t.v[x].toNat : Int) = ((s.v[y].toNat : Int) - s.v[x].toNat) % 256) ∧
      t.v[15].toNat = (if s.v[y].toNat ≥ s.v[x].toNat then 1 else 0) ∧
      (∀ r, r ≠ x → r ≠ 15 → t.v[r] = s.v[r]) ∧ t.pc = nextPc s.pc ∧ Frame [.v, .pc] s t)

/-- `SHR` and `SHL` in place by one bit, VF the bit shifted out as 0 or 1, `y` not used (R168, R170; the spec's
decisions D8, D9). -/
def Obligations.ShiftsSetBitOut : Prop :=
  ∀ (x y : Reg) (s : State),
    (∃ t, exec (.shr x y) s = .next t ∧ (x ≠ 15 → t.v[x].toNat = s.v[x].toNat / 2) ∧
      t.v[15].toNat = s.v[x].toNat % 2 ∧ (∀ r, r ≠ x → r ≠ 15 → t.v[r] = s.v[r]) ∧ t.pc = nextPc s.pc ∧
      Frame [.v, .pc] s t) ∧
    (∃ t, exec (.shl x y) s = .next t ∧ (x ≠ 15 → t.v[x].toNat = 2 * s.v[x].toNat % 256) ∧
      t.v[15].toNat = s.v[x].toNat / 128 ∧ (∀ r, r ≠ x → r ≠ 15 → t.v[r] = s.v[r]) ∧ t.pc = nextPc s.pc ∧
      Frame [.v, .pc] s t)

/-- `RND Vx, nn`: some byte, masked by `nn`; no bit outside `nn`, and no flag (R173). That the byte is the model's
free value `Config.randomByte` of the field `draws`, and that `draws` goes on by one, is the model's choice
(log entry 1). -/
def Obligations.RandomByteIsMasked : Prop :=
  ∀ (x : Reg) (nn : Byte) (s : State), ∃ t, exec (.rnd x nn) s = .next t ∧
    t.v[x] = Config.randomByte s.draws &&& nn ∧ t.v[x] &&& ~~~nn = 0 ∧ (∀ r, r ≠ x → t.v[r] = s.v[r]) ∧
    t.pc = nextPc s.pc ∧ t.draws = s.draws + 1 ∧ Frame [.v, .pc, .draws] s t

/-! ## Index register and memory (43_index_memory.md, 20_memory.md) -/

/-- `LD I, nnn`, `ADD I, Vx` (wraps at 65536, no flag, no fault) and `LD F, Vx` (not masked) (R190, R191, R192; the
spec's decisions D11, D13). -/
def Obligations.IndexRegisterLoads : Prop :=
  (∀ (nnn : Addr12) (s : State), ∃ t, exec (.ldI nnn) s = .next t ∧ t.i.toNat = nnn.toNat ∧ t.pc = nextPc s.pc ∧
      Frame [.i, .pc] s t) ∧
    ∀ (x : Reg) (s : State),
      (∃ t, exec (.addI x) s = .next t ∧ t.i.toNat = (s.i.toNat + s.v[x].toNat) % 65536 ∧ t.pc = nextPc s.pc ∧
        Frame [.i, .pc] s t) ∧
      (∃ t, exec (.ldF x) s = .next t ∧ t.i.toNat = 5 * s.v[x].toNat ∧ t.pc = nextPc s.pc ∧ Frame [.i, .pc] s t)

/-- `LD B, Vx`: the three decimal digits at `I`, `I + 1`, `I + 2`, every other byte as before; past 4093 it faults
and writes nothing (R193). -/
def Obligations.DecimalDigitsStored : Prop :=
  ∀ (x : Reg) (s : State),
    (s.i.toNat ≤ 4093 → ∃ t, exec (.ldB x) s = .next t ∧
      (t.mem.read s.i.toNat).toNat = s.v[x].toNat / 100 ∧
      (t.mem.read (s.i.toNat + 1)).toNat = s.v[x].toNat / 10 % 10 ∧
      (t.mem.read (s.i.toNat + 2)).toNat = s.v[x].toNat % 10 ∧
      (∀ a, a < s.i.toNat ∨ s.i.toNat + 2 < a → t.mem.read a = s.mem.read a) ∧ t.pc = nextPc s.pc ∧
      Frame [.mem, .pc] s t) ∧
    (4093 < s.i.toNat → ∃ t, exec (.ldB x) s = .next t ∧ FaultEntry .dataWriteBounds (max s.i.toNat 4096) s t)

/-- `LD [I], Vx`: `V0` to `Vx` at `I` upward, every other byte as before, `I` unchanged; a range that leaves the memory
faults and writes nothing (R194; the spec's decision D14). -/
def Obligations.RegistersStored : Prop :=
  ∀ (x : Reg) (s : State),
    (s.i.toNat + x.val ≤ 4095 → ∃ t, exec (.stRegs x) s = .next t ∧
      (∀ k : Reg, k ≤ x → t.mem.read (s.i.toNat + k.val) = s.v[k]) ∧
      (∀ a, a < s.i.toNat ∨ s.i.toNat + x.val < a → t.mem.read a = s.mem.read a) ∧ t.pc = nextPc s.pc ∧
      Frame [.mem, .pc] s t) ∧
    (4095 < s.i.toNat + x.val →
      ∃ t, exec (.stRegs x) s = .next t ∧ FaultEntry .dataWriteBounds (max s.i.toNat 4096) s t)

/-- `LD Vx, [I]`: `V0` to `Vx` from `I` upward, the other registers, `I` and memory unchanged; a range that leaves the
memory faults and loads nothing (R195; the spec's decision D14). -/
def Obligations.RegistersLoaded : Prop :=
  ∀ (x : Reg) (s : State),
    (s.i.toNat + x.val ≤ 4095 → ∃ t, exec (.ldRegs x) s = .next t ∧
      (∀ k : Reg, k ≤ x → t.v[k] = s.mem.read (s.i.toNat + k.val)) ∧ (∀ k : Reg, x < k → t.v[k] = s.v[k]) ∧
      t.pc = nextPc s.pc ∧ Frame [.v, .pc] s t) ∧
    (4095 < s.i.toNat + x.val →
      ∃ t, exec (.ldRegs x) s = .next t ∧ FaultEntry .dataReadBounds (max s.i.toNat 4096) s t)

/-- Registers stored by `LD [I], Vx` come back by `LD Vx, [I]`, whatever the registers hold in between (R194, R195,
20_memory.md R72 c). -/
def Obligations.StoreThenLoadRestores : Prop :=
  ∀ (x : Reg) (s : State) (w : Vector Byte 16), s.i.toNat + x.val ≤ 4095 →
    ∃ t u, exec (.stRegs x) s = .next t ∧ exec (.ldRegs x) { t with v := w } = .next u ∧
      (∀ k : Reg, k ≤ x → u.v[k] = s.v[k]) ∧ ∀ k : Reg, x < k → u.v[k] = w[k]

/-- A store over the next instruction is seen by the very next step: after `LD [I], Vx` with `I` at the advanced `PC`,
the step runs what `V0` and `V1` spell (20_memory.md R73). -/
def Obligations.StoreSeenByNextFetch : Prop :=
  ∀ (x : Reg) (s : State) (i : Instr), s.Running → 1 ≤ x.val → s.i = nextPc s.pc → s.i.toNat + x.val ≤ 4095 →
    decodeBytes s.v[0] s.v[1] = .instr i →
    ∃ t, exec (.stRegs x) s = .next t ∧ step t = exec i t

/-- Two memories in canonical form that read the same are the same data: the model's representation of `MEM` is unique
(10_state.md R34, 20_memory.md R60). -/
def Obligations.CanonicalMemoriesAreUnique : Prop :=
  ∀ m m' : Memory, m.wf → m'.wf → (∀ a < 4096, m.read a = m'.read a) → m = m'

/-! ## Display (44_display.md) -/

/-- `CLS`: every pixel off, one `Clear`, no flag, no repaint (R211; the spec's decision D28). -/
def Obligations.ClearDisplay : Prop :=
  ∀ s : State, ∃ t, exec .cls s = .next t ∧ (∀ (X : Fin 64) (Y : Fin 32), t.fb[Y][X] = false) ∧
    t.trace = s.trace ++ [.clear] ∧ t.pc = nextPc s.pc ∧ Frame [.fb, .trace, .pc] s t

/-- `DRW Vx, Vy, n`: each pixel is exclusive-ored with the sprite, round the edges; VF is 1 exactly when a pixel went
from on to off; the toggles in order, then one repaint; a sprite that leaves the memory faults and draws nothing
(R212; the spec's decision D15). -/
def Obligations.DrawSprite : Prop :=
  ∀ (x y : Reg) (n : Nibble) (s : State),
    (n.toNat = 0 ∨ s.i.toNat + n.toNat ≤ 4096 → ∃ t, exec (.drw x y n) s = .next t ∧
      (∀ X Y, t.fb[Y][X] = (s.fb[Y][X] != s.spriteBit x y n X Y)) ∧
      (t.v[15] = 1 ↔ ∃ X Y, s.fb[Y][X] = true ∧ s.spriteBit x y n X Y = true) ∧ (t.v[15] = 0 ∨ t.v[15] = 1) ∧
      (∀ r : Reg, r ≠ 15 → t.v[r] = s.v[r]) ∧ t.trace = s.trace ++ s.spriteToggles x y n ++ [.render] ∧
      t.pc = nextPc s.pc ∧ Frame [.v, .pc, .fb, .trace] s t) ∧
    (0 < n.toNat → 4096 < s.i.toNat + n.toNat →
      ∃ t, exec (.drw x y n) s = .next t ∧ FaultEntry .dataReadBounds (max s.i.toNat 4096) s t)

/-- Drawing the same sprite twice at the same place restores the display, and the second draw reports a collision
whenever the sprite has a 1 bit and the first reported none (R212 g). The coordinates are not read from VF, which the
first draw overwrites. -/
def Obligations.DrawTwiceRestores : Prop :=
  ∀ (x y : Reg) (n : Nibble) (s : State), x ≠ 15 → y ≠ 15 → (n.toNat = 0 ∨ s.i.toNat + n.toNat ≤ 4096) →
    ∃ t u, exec (.drw x y n) s = .next t ∧ exec (.drw x y n) t = .next u ∧ u.fb = s.fb ∧
      (t.v[15] = 0 → (∃ X Y, s.spriteBit x y n X Y = true) → u.v[15] = 1)

/-! ## Keypad and timers (45_keypad_timers.md) -/

/-- `SKP Vx` and `SKNP Vx`: the key is pressed when `V[x]` is at most 15 and its bit of `KEYS` is 1; no masking
(R220, R221, R226; the spec's decision D17). -/
def Obligations.KeySkips : Prop :=
  ∀ (x : Reg) (s : State),
    (∃ t, exec (.skp x) s = .next t ∧ Frame [.pc] s t ∧ t.pc.toNat = (nextPc s.pc).toNat +
      if s.v[x].toNat ≤ 15 ∧ s.keys.getLsbD s.v[x].toNat = true then 2 else 0) ∧
    (∃ t, exec (.sknp x) s = .next t ∧ Frame [.pc] s t ∧ t.pc.toNat = (nextPc s.pc).toNat +
      if s.v[x].toNat ≤ 15 ∧ s.keys.getLsbD s.v[x].toNat = true then 0 else 2)

/-- `LD Vx, DT` and `LD DT, Vx` (R222, R224). -/
def Obligations.DelayTimerMoves : Prop :=
  ∀ (x : Reg) (s : State),
    (∃ t, exec (.ldVxDt x) s = .next t ∧ t.v[x] = s.dt ∧ (∀ r, r ≠ x → t.v[r] = s.v[r]) ∧ t.pc = nextPc s.pc ∧
      Frame [.v, .pc] s t) ∧
    (∃ t, exec (.ldDtVx x) s = .next t ∧ t.dt = s.v[x] ∧ t.pc = nextPc s.pc ∧ Frame [.dt, .pc] s t)

/-- `LD ST, Vx`: a value that is not 0 starts the tone; 0 emits nothing and leaves the tone (R225; the spec's decision D19). -/
def Obligations.SoundTimerStartsTone : Prop :=
  ∀ (x : Reg) (s : State), ∃ t, exec (.ldStVx x) s = .next t ∧ t.st = s.v[x] ∧ t.pc = nextPc s.pc ∧
    (s.v[x] ≠ 0 → t.tone = true ∧ t.trace = s.trace ++ [.startTone]) ∧
    (s.v[x] = 0 → t.tone = s.tone ∧ t.trace = s.trace) ∧ Frame [.st, .pc, .tone, .trace] s t

/-- `LD Vx, K` arms the latch and writes no register; then no number of steps changes anything, and the first mapped
key-down writes the key to `Vx` and disarms it, after which a step fetches again (R223, R121, R256). -/
def Obligations.KeyWaitResolvedByKeyDown : Prop :=
  ∀ (P : Config.Params) (x : Reg) (s : State),
    ∃ t, exec (.ldVxK x) s = .next t ∧ t.wait = true ∧ t.waitReg = x ∧ t.pc = nextPc s.pc ∧
      Frame [.wait, .waitReg, .pc] s t ∧
      ∀ (n p : Nat) (k : Key), keyOf P p = some k →
        runOps P (List.replicate n .step) t = .next t ∧
        ∃ u, runOp P (.keyDown p) t = .next u ∧ u.v[x].toNat = k.val ∧ (∀ r, r ≠ x → u.v[r] = s.v[r]) ∧
          u.wait = false ∧ u.pc = nextPc s.pc ∧ (s.Safe → u.Running) ∧ Frame [.v, .keys, .wait] t u

/-! ## The agents outside the core (60_exceptions.md, 70_reset_and_hazards.md) -/

/-- `Tick()`: each timer counts down and stops at 0; `StopTone` in the tick that takes `ST` from 1 to 0, or when `ST`
is already 0 and a tone still sounds (R252; the spec's decision D18). -/
def Obligations.TickCountsDown : Prop :=
  ∀ (P : Config.Params) (s : State), ∃ t, runOp P .tick s = .next t ∧ t.dt.toNat = s.dt.toNat - 1 ∧
    t.st.toNat = s.st.toNat - 1 ∧
    (s.st.toNat = 1 ∨ (s.st.toNat = 0 ∧ s.tone = true) → t.tone = false ∧ t.trace = s.trace ++ [.stopTone]) ∧
    (1 < s.st.toNat ∨ (s.st.toNat = 0 ∧ s.tone = false) → t.tone = s.tone ∧ t.trace = s.trace) ∧
    Frame [.dt, .st, .tone, .trace] s t

/-- Any number of ticks in a row: the timers reach 0 and stay there, and when the sound timer's ticks are over the tone
is silent, with exactly one `StopTone` for a tone that sounded (R252). -/
def Obligations.TicksSilenceTheTone : Prop :=
  ∀ (P : Config.Params) (n : Nat) (s : State), s.tone = true → ∃ t, runOps P (List.replicate n .tick) s = .next t ∧
    t.dt.toNat = s.dt.toNat - n ∧ t.st.toNat = s.st.toNat - n ∧
    (n < max s.st.toNat 1 → t.tone = true ∧ t.trace = s.trace) ∧
    (max s.st.toNat 1 ≤ n → t.tone = false ∧ t.trace = s.trace ++ [.stopTone])

/-- `KeyDown(p)`: an unmapped code changes nothing; a mapped one enters the pressed set and resolves an armed latch
(R256; the spec's decision D23). -/
def Obligations.KeyDownPressesAndResolves : Prop :=
  ∀ (P : Config.Params) (p : Nat) (s : State),
    (keyOf P p = none → runOp P (.keyDown p) s = .next s) ∧
    ∀ k, keyOf P p = some k → ∃ t, runOp P (.keyDown p) s = .next t ∧
      (∀ j : Key, t.keys.getLsbD j.val = (decide (j = k) || s.keys.getLsbD j.val)) ∧ t.wait = false ∧
      (∀ r, t.v[r].toNat = if s.wait = true ∧ r = s.waitReg then k.val else s.v[r].toNat) ∧
      Frame [.v, .keys, .wait] s t

/-- `KeyUp(p)`: an unmapped code changes nothing; a mapped one leaves the pressed set, and nothing else changes
(R257). -/
def Obligations.KeyUpReleases : Prop :=
  ∀ (P : Config.Params) (p : Nat) (s : State),
    (keyOf P p = none → runOp P (.keyUp p) s = .next s) ∧
    ∀ k, keyOf P p = some k → ∃ t, runOp P (.keyUp p) s = .next t ∧
      (∀ j : Key, t.keys.getLsbD j.val = (!decide (j = k) && s.keys.getLsbD j.val)) ∧ Frame [.keys] s t

/-- `KEYMAP` is a partial function whose domain is the 16 codes, onto the 16 logical keys (R255, D24). -/
def Obligations.KeymapIsOnto : Prop :=
  ∀ P : Config.Params, P.wf → ∀ (p : Nat) (k : Key), keyOf P p = some k ↔ P.keyCodes[k] = p

/-- `Reset()` from any state: every value of the table of R45; `TONE` is not written, the trace gains one `Clear`
(R280; the spec's decision D20). -/
def Obligations.ResetTable : Prop :=
  ∀ (P : Config.Params) (s : State), ∃ t, runOp P .reset s = .next t ∧ (∀ r : Reg, t.v[r] = 0) ∧ t.i = 0 ∧
    t.pc.toNat = 0x200 ∧ (∀ j : Fin 16, t.stack[j] = 0) ∧ t.sp.toInt = 15 ∧ t.dt = 0 ∧ t.st = 0 ∧ t.keys = 0 ∧
    t.wait = false ∧ t.waitReg = 0 ∧ (∀ a : Fin 80, t.mem.read a.val = P.font[a]) ∧
    (∀ a, 80 ≤ a → t.mem.read a = 0) ∧ t.fault = { cause := .noFault, pc := 0, info := 0 } ∧
    (∀ (X : Fin 64) (Y : Fin 32), t.fb[Y][X] = false) ∧ t.trace = s.trace ++ [.clear] ∧ Field.Same .tone s t

/-- Power-on, the model's `State.reset`: every value of R45 with `TONE` 0 and an empty trace (R47). That address 0 to
79 reads as the DEFAULT font is presumed, as the spec itself marks that table (log entry 2). -/
def Obligations.PowerOnState : Prop :=
  (∀ r : Reg, State.reset.v[r] = 0) ∧ State.reset.i = 0 ∧ State.reset.pc.toNat = 0x200 ∧
    (∀ j : Fin 16, State.reset.stack[j] = 0) ∧ State.reset.sp.toInt = 15 ∧ State.reset.dt = 0 ∧ State.reset.st = 0 ∧
    State.reset.keys = 0 ∧ State.reset.wait = false ∧ State.reset.waitReg = 0 ∧
    (∀ a : Fin 80, State.reset.mem.read a.val = defaultFont[a]) ∧ (∀ a, 80 ≤ a → State.reset.mem.read a = 0) ∧
    State.reset.fault = { cause := .noFault, pc := 0, info := 0 } ∧
    (∀ (X : Fin 64) (Y : Fin 32), State.reset.fb[Y][X] = false) ∧ State.reset.tone = false ∧
    State.reset.trace = []

/-- `LoadROM(rom)`: a reset, then at most 3232 bytes at 0x200 upward, excess discarded, with no event but the reset's
`Clear` (R282). -/
def Obligations.RomLoadTruncates : Prop :=
  ∀ (P : Config.Params) (rom : List Byte) (s : State),
    ∃ t u, runOp P (.loadRom rom) s = .next t ∧ runOp P .reset s = .next u ∧
      (∀ k < min rom.length 3232, t.mem.read (0x200 + k) = rom.getD k 0) ∧
      (∀ a, a < 0x200 ∨ 0x200 + min rom.length 3232 ≤ a → t.mem.read a = u.mem.read a) ∧ Frame [.mem] u t

/-- Without a program the core runs no-operations from 0x200 to 0xFFE and wraps: after `n` steps over a memory that is
all zero from 0x200 on, `PC` is 0x200 + 2 (n mod 1792), and the trace has gained one diagnostic for each step, for the
word 0x0000 at 0x200, 0x202 and so on in turn (R283, R126). -/
def Obligations.EmptyMemoryRunsNoOperations : Prop :=
  ∀ (P : Config.Params) (n : Nat) (s : State), s.Running → s.pc.toNat = 0x200 →
    (∀ a, 0x200 ≤ a → a < 4096 → s.mem.read a = 0) →
    ∃ t, runOps P (List.replicate n .step) s = .next t ∧ t.pc.toNat = 0x200 + 2 * (n % 1792) ∧
      t.trace = s.trace ++
        (List.range n).map (fun k => .diagUnrecognized 0x0000 (BitVec.ofNat 16 (0x200 + 2 * (k % 1792)))) ∧
      Frame [.pc, .trace] s t

/-- A jump to itself: from such a state, while no key is awaited, no number of steps, ticks and key events changes
`PC`, `I`, memory, registers, stack or display (R296, R141). -/
def Obligations.JumpToSelfStays : Prop :=
  ∀ (P : Config.Params) (ops : List Op) (s : State) (nnn : Addr12), s.Running → s.pc.toNat ≤ 4094 →
    decodeBytes (s.mem.read s.pc.toNat) (s.mem.read (s.pc.toNat + 1)) = .instr (.jp nnn) →
    nnn.toNat = s.pc.toNat → (∀ o ∈ ops, o ≠ .reset ∧ ∀ rom, o ≠ .loadRom rom) →
    step s = .next s ∧ ∃ t, runOps P ops s = .next t ∧ Frame [.dt, .st, .keys, .tone, .trace] s t

/-! ## Who writes what (10_state.md) -/

/-- An instruction writes no general register but its destination, and VF only for the six flag writers or as the
destination (R21, R22). -/
def Obligations.RegisterWriters : Prop :=
  ∀ (i : Instr) (s t : State) (r : Reg), exec i s = .next t → ¬ i.writes r → t.v[r] = s.v[r]

/-- The flag of the five arithmetic flag writers and of the draw is always 0 or 1, on every execution that is not a
fault (R22; R46 e). -/
def Obligations.FlagIsZeroOrOne : Prop :=
  ∀ (x y : Reg) (n : Nibble) (s : State),
    ∀ i ∈ [Instr.addReg x y, .subReg x y, .shr x y, .subnReg x y, .shl x y, .drw x y n],
      (n.toNat = 0 ∨ s.i.toNat + n.toNat ≤ 4096) → ∃ t, exec i s = .next t ∧ (t.v[15] = 0 ∨ t.v[15] = 1)

/-- `STACK` and `SP` change only by `CALL` and `RET` (R26, R27); `I` only by its three loads (R23); memory only by
`LD B, Vx` and `LD [I], Vx` (R70); the timers only by their loads (R28, R29); the latch only by `LD Vx, K` (R31); the
display only by `CLS` and `DRW` (R210); `KEYS` by no instruction (R30). -/
def Obligations.SpecialStateWriters : Prop :=
  ∀ (i : Instr) (s t : State), exec i s = .next t →
    ((∀ nnn, i ≠ .call nnn) → t.stack = s.stack) ∧
    ((∀ nnn, i ≠ .call nnn) → i ≠ .ret → t.sp = s.sp) ∧
    ((∀ nnn, i ≠ .ldI nnn) → (∀ x, i ≠ .addI x ∧ i ≠ .ldF x) → t.i = s.i) ∧
    ((∀ x, i ≠ .ldB x ∧ i ≠ .stRegs x) → ∀ a, t.mem.read a = s.mem.read a) ∧
    ((∀ x, i ≠ .ldDtVx x) → t.dt = s.dt) ∧ ((∀ x, i ≠ .ldStVx x) → t.st = s.st ∧ t.tone = s.tone) ∧
    ((∀ x, i ≠ .ldVxK x) → t.wait = s.wait ∧ t.waitReg = s.waitReg) ∧
    (i ≠ .cls → (∀ x y n, i ≠ .drw x y n) → t.fb = s.fb) ∧ t.keys = s.keys

/-! ## Invariants -/

/-- The invariant holds at reset (R46). -/
def Obligations.InvariantAtReset : Prop := State.reset.Inv

/-- Every step keeps the invariant, from every state that has it (R46). -/
def Obligations.StepKeepsInvariant : Prop := ∀ s t : State, s.Inv → step s = .next t → t.Inv

/-- Every operation of every agent answers a next state and keeps the invariant, for any parameters (R9, R46). -/
def Obligations.EveryOperationKeepsInvariant : Prop :=
  ∀ (P : Config.Params) (o : Op) (s : State), s.Inv → ∃ t, runOp P o s = .next t ∧ t.Inv

/-- The host's word, stored where the step fetches, is what the step runs, from any state at all (R122, R124). -/
def Obligations.PlacedWordRuns : Prop :=
  ∀ (s : State) (w : Nat) (i : Instr), decodeTableWord 16 w = some i →
    step (s.withFetchWord 16 w) = exec i (s.withFetchWord 16 w)
end

