-- ==== Sys2Proof/Laws/State.lean ====
section
/-! SUPPORT. Laws/State.lean: for each named update, what it does to each field; every lemma is by definition. -/

namespace Sys2Proof.Machine

/-! What the events do to the adapters' models. -/

@[simp] theorem Event.onGrid_toggle (x : Fin 64) (y : Fin 32) (g : Grid) :
    (Event.toggle x y).onGrid g = g.toggle x y := rfl
@[simp] theorem Event.onGrid_clear (g : Grid) : Event.clear.onGrid g = Grid.blank := rfl
@[simp] theorem Event.onGrid_render (g : Grid) : Event.render.onGrid g = g := rfl
@[simp] theorem Event.onGrid_startTone (g : Grid) : Event.startTone.onGrid g = g := rfl
@[simp] theorem Event.onGrid_stopTone (g : Grid) : Event.stopTone.onGrid g = g := rfl
@[simp] theorem Event.onTone_toggle (x : Fin 64) (y : Fin 32) (b : Bool) : (Event.toggle x y).onTone b = b := rfl
@[simp] theorem Event.onTone_clear (b : Bool) : Event.clear.onTone b = b := rfl
@[simp] theorem Event.onTone_render (b : Bool) : Event.render.onTone b = b := rfl
@[simp] theorem Event.onTone_startTone (b : Bool) : Event.startTone.onTone b = true := rfl
@[simp] theorem Event.onTone_stopTone (b : Bool) : Event.stopTone.onTone b = false := rfl

@[simp] theorem State.draw8_fst (s : State) : s.draw8.1 = Config.randomByte s.draws := rfl

/-! `State.writeReg`. -/

@[simp] theorem State.writeReg_v (s : State) (x : Reg) (b : Byte) :
    (s.writeReg x b).v = s.v.set x.val b x.isLt := rfl
@[simp] theorem State.writeReg_i (s : State) (x : Reg) (b : Byte) : (s.writeReg x b).i = s.i := rfl
@[simp] theorem State.writeReg_pc (s : State) (x : Reg) (b : Byte) : (s.writeReg x b).pc = s.pc := rfl
@[simp] theorem State.writeReg_stack (s : State) (x : Reg) (b : Byte) : (s.writeReg x b).stack = s.stack := rfl
@[simp] theorem State.writeReg_sp (s : State) (x : Reg) (b : Byte) : (s.writeReg x b).sp = s.sp := rfl
@[simp] theorem State.writeReg_dt (s : State) (x : Reg) (b : Byte) : (s.writeReg x b).dt = s.dt := rfl
@[simp] theorem State.writeReg_st (s : State) (x : Reg) (b : Byte) : (s.writeReg x b).st = s.st := rfl
@[simp] theorem State.writeReg_keys (s : State) (x : Reg) (b : Byte) : (s.writeReg x b).keys = s.keys := rfl
@[simp] theorem State.writeReg_wait (s : State) (x : Reg) (b : Byte) : (s.writeReg x b).wait = s.wait := rfl
@[simp] theorem State.writeReg_waitReg (s : State) (x : Reg) (b : Byte) :
    (s.writeReg x b).waitReg = s.waitReg := rfl
@[simp] theorem State.writeReg_mem (s : State) (x : Reg) (b : Byte) : (s.writeReg x b).mem = s.mem := rfl
@[simp] theorem State.writeReg_fault (s : State) (x : Reg) (b : Byte) : (s.writeReg x b).fault = s.fault := rfl
@[simp] theorem State.writeReg_fb (s : State) (x : Reg) (b : Byte) : (s.writeReg x b).fb = s.fb := rfl
@[simp] theorem State.writeReg_tone (s : State) (x : Reg) (b : Byte) : (s.writeReg x b).tone = s.tone := rfl
@[simp] theorem State.writeReg_trace (s : State) (x : Reg) (b : Byte) : (s.writeReg x b).trace = s.trace := rfl
@[simp] theorem State.writeReg_draws (s : State) (x : Reg) (b : Byte) : (s.writeReg x b).draws = s.draws := rfl

/-! `State.loadRegs`. -/

@[simp] theorem State.loadRegs_v (s : State) (bs : List Byte) : (s.loadRegs bs).v = regsFrom s.v 0 bs := rfl
@[simp] theorem State.loadRegs_i (s : State) (bs : List Byte) : (s.loadRegs bs).i = s.i := rfl
@[simp] theorem State.loadRegs_pc (s : State) (bs : List Byte) : (s.loadRegs bs).pc = s.pc := rfl
@[simp] theorem State.loadRegs_stack (s : State) (bs : List Byte) : (s.loadRegs bs).stack = s.stack := rfl
@[simp] theorem State.loadRegs_sp (s : State) (bs : List Byte) : (s.loadRegs bs).sp = s.sp := rfl
@[simp] theorem State.loadRegs_dt (s : State) (bs : List Byte) : (s.loadRegs bs).dt = s.dt := rfl
@[simp] theorem State.loadRegs_st (s : State) (bs : List Byte) : (s.loadRegs bs).st = s.st := rfl
@[simp] theorem State.loadRegs_keys (s : State) (bs : List Byte) : (s.loadRegs bs).keys = s.keys := rfl
@[simp] theorem State.loadRegs_wait (s : State) (bs : List Byte) : (s.loadRegs bs).wait = s.wait := rfl
@[simp] theorem State.loadRegs_waitReg (s : State) (bs : List Byte) : (s.loadRegs bs).waitReg = s.waitReg := rfl
@[simp] theorem State.loadRegs_mem (s : State) (bs : List Byte) : (s.loadRegs bs).mem = s.mem := rfl
@[simp] theorem State.loadRegs_fault (s : State) (bs : List Byte) : (s.loadRegs bs).fault = s.fault := rfl
@[simp] theorem State.loadRegs_fb (s : State) (bs : List Byte) : (s.loadRegs bs).fb = s.fb := rfl
@[simp] theorem State.loadRegs_tone (s : State) (bs : List Byte) : (s.loadRegs bs).tone = s.tone := rfl
@[simp] theorem State.loadRegs_trace (s : State) (bs : List Byte) : (s.loadRegs bs).trace = s.trace := rfl
@[simp] theorem State.loadRegs_draws (s : State) (bs : List Byte) : (s.loadRegs bs).draws = s.draws := rfl

/-! `State.setI`. -/

@[simp] theorem State.setI_v (s : State) (w : Word) : (s.setI w).v = s.v := rfl
@[simp] theorem State.setI_i (s : State) (w : Word) : (s.setI w).i = w := rfl
@[simp] theorem State.setI_pc (s : State) (w : Word) : (s.setI w).pc = s.pc := rfl
@[simp] theorem State.setI_stack (s : State) (w : Word) : (s.setI w).stack = s.stack := rfl
@[simp] theorem State.setI_sp (s : State) (w : Word) : (s.setI w).sp = s.sp := rfl
@[simp] theorem State.setI_dt (s : State) (w : Word) : (s.setI w).dt = s.dt := rfl
@[simp] theorem State.setI_st (s : State) (w : Word) : (s.setI w).st = s.st := rfl
@[simp] theorem State.setI_keys (s : State) (w : Word) : (s.setI w).keys = s.keys := rfl
@[simp] theorem State.setI_wait (s : State) (w : Word) : (s.setI w).wait = s.wait := rfl
@[simp] theorem State.setI_waitReg (s : State) (w : Word) : (s.setI w).waitReg = s.waitReg := rfl
@[simp] theorem State.setI_mem (s : State) (w : Word) : (s.setI w).mem = s.mem := rfl
@[simp] theorem State.setI_fault (s : State) (w : Word) : (s.setI w).fault = s.fault := rfl
@[simp] theorem State.setI_fb (s : State) (w : Word) : (s.setI w).fb = s.fb := rfl
@[simp] theorem State.setI_tone (s : State) (w : Word) : (s.setI w).tone = s.tone := rfl
@[simp] theorem State.setI_trace (s : State) (w : Word) : (s.setI w).trace = s.trace := rfl
@[simp] theorem State.setI_draws (s : State) (w : Word) : (s.setI w).draws = s.draws := rfl

/-! `State.setDt`. -/

@[simp] theorem State.setDt_v (s : State) (b : Byte) : (s.setDt b).v = s.v := rfl
@[simp] theorem State.setDt_i (s : State) (b : Byte) : (s.setDt b).i = s.i := rfl
@[simp] theorem State.setDt_pc (s : State) (b : Byte) : (s.setDt b).pc = s.pc := rfl
@[simp] theorem State.setDt_stack (s : State) (b : Byte) : (s.setDt b).stack = s.stack := rfl
@[simp] theorem State.setDt_sp (s : State) (b : Byte) : (s.setDt b).sp = s.sp := rfl
@[simp] theorem State.setDt_dt (s : State) (b : Byte) : (s.setDt b).dt = b := rfl
@[simp] theorem State.setDt_st (s : State) (b : Byte) : (s.setDt b).st = s.st := rfl
@[simp] theorem State.setDt_keys (s : State) (b : Byte) : (s.setDt b).keys = s.keys := rfl
@[simp] theorem State.setDt_wait (s : State) (b : Byte) : (s.setDt b).wait = s.wait := rfl
@[simp] theorem State.setDt_waitReg (s : State) (b : Byte) : (s.setDt b).waitReg = s.waitReg := rfl
@[simp] theorem State.setDt_mem (s : State) (b : Byte) : (s.setDt b).mem = s.mem := rfl
@[simp] theorem State.setDt_fault (s : State) (b : Byte) : (s.setDt b).fault = s.fault := rfl
@[simp] theorem State.setDt_fb (s : State) (b : Byte) : (s.setDt b).fb = s.fb := rfl
@[simp] theorem State.setDt_tone (s : State) (b : Byte) : (s.setDt b).tone = s.tone := rfl
@[simp] theorem State.setDt_trace (s : State) (b : Byte) : (s.setDt b).trace = s.trace := rfl
@[simp] theorem State.setDt_draws (s : State) (b : Byte) : (s.setDt b).draws = s.draws := rfl

/-! `State.setSt`. -/

@[simp] theorem State.setSt_v (s : State) (b : Byte) : (s.setSt b).v = s.v := rfl
@[simp] theorem State.setSt_i (s : State) (b : Byte) : (s.setSt b).i = s.i := rfl
@[simp] theorem State.setSt_pc (s : State) (b : Byte) : (s.setSt b).pc = s.pc := rfl
@[simp] theorem State.setSt_stack (s : State) (b : Byte) : (s.setSt b).stack = s.stack := rfl
@[simp] theorem State.setSt_sp (s : State) (b : Byte) : (s.setSt b).sp = s.sp := rfl
@[simp] theorem State.setSt_dt (s : State) (b : Byte) : (s.setSt b).dt = s.dt := rfl
@[simp] theorem State.setSt_st (s : State) (b : Byte) : (s.setSt b).st = b := rfl
@[simp] theorem State.setSt_keys (s : State) (b : Byte) : (s.setSt b).keys = s.keys := rfl
@[simp] theorem State.setSt_wait (s : State) (b : Byte) : (s.setSt b).wait = s.wait := rfl
@[simp] theorem State.setSt_waitReg (s : State) (b : Byte) : (s.setSt b).waitReg = s.waitReg := rfl
@[simp] theorem State.setSt_mem (s : State) (b : Byte) : (s.setSt b).mem = s.mem := rfl
@[simp] theorem State.setSt_fault (s : State) (b : Byte) : (s.setSt b).fault = s.fault := rfl
@[simp] theorem State.setSt_fb (s : State) (b : Byte) : (s.setSt b).fb = s.fb := rfl
@[simp] theorem State.setSt_tone (s : State) (b : Byte) : (s.setSt b).tone = s.tone := rfl
@[simp] theorem State.setSt_trace (s : State) (b : Byte) : (s.setSt b).trace = s.trace := rfl
@[simp] theorem State.setSt_draws (s : State) (b : Byte) : (s.setSt b).draws = s.draws := rfl

/-! `State.setMem`. -/

@[simp] theorem State.setMem_v (s : State) (m : Memory) : (s.setMem m).v = s.v := rfl
@[simp] theorem State.setMem_i (s : State) (m : Memory) : (s.setMem m).i = s.i := rfl
@[simp] theorem State.setMem_pc (s : State) (m : Memory) : (s.setMem m).pc = s.pc := rfl
@[simp] theorem State.setMem_stack (s : State) (m : Memory) : (s.setMem m).stack = s.stack := rfl
@[simp] theorem State.setMem_sp (s : State) (m : Memory) : (s.setMem m).sp = s.sp := rfl
@[simp] theorem State.setMem_dt (s : State) (m : Memory) : (s.setMem m).dt = s.dt := rfl
@[simp] theorem State.setMem_st (s : State) (m : Memory) : (s.setMem m).st = s.st := rfl
@[simp] theorem State.setMem_keys (s : State) (m : Memory) : (s.setMem m).keys = s.keys := rfl
@[simp] theorem State.setMem_wait (s : State) (m : Memory) : (s.setMem m).wait = s.wait := rfl
@[simp] theorem State.setMem_waitReg (s : State) (m : Memory) : (s.setMem m).waitReg = s.waitReg := rfl
@[simp] theorem State.setMem_mem (s : State) (m : Memory) : (s.setMem m).mem = m := rfl
@[simp] theorem State.setMem_fault (s : State) (m : Memory) : (s.setMem m).fault = s.fault := rfl
@[simp] theorem State.setMem_fb (s : State) (m : Memory) : (s.setMem m).fb = s.fb := rfl
@[simp] theorem State.setMem_tone (s : State) (m : Memory) : (s.setMem m).tone = s.tone := rfl
@[simp] theorem State.setMem_trace (s : State) (m : Memory) : (s.setMem m).trace = s.trace := rfl
@[simp] theorem State.setMem_draws (s : State) (m : Memory) : (s.setMem m).draws = s.draws := rfl

/-! `State.advance`. -/

@[simp] theorem State.advance_v (s : State) : (s.advance).v = s.v := rfl
@[simp] theorem State.advance_i (s : State) : (s.advance).i = s.i := rfl
@[simp] theorem State.advance_pc (s : State) : (s.advance).pc = nextPc s.pc := rfl
@[simp] theorem State.advance_stack (s : State) : (s.advance).stack = s.stack := rfl
@[simp] theorem State.advance_sp (s : State) : (s.advance).sp = s.sp := rfl
@[simp] theorem State.advance_dt (s : State) : (s.advance).dt = s.dt := rfl
@[simp] theorem State.advance_st (s : State) : (s.advance).st = s.st := rfl
@[simp] theorem State.advance_keys (s : State) : (s.advance).keys = s.keys := rfl
@[simp] theorem State.advance_wait (s : State) : (s.advance).wait = s.wait := rfl
@[simp] theorem State.advance_waitReg (s : State) : (s.advance).waitReg = s.waitReg := rfl
@[simp] theorem State.advance_mem (s : State) : (s.advance).mem = s.mem := rfl
@[simp] theorem State.advance_fault (s : State) : (s.advance).fault = s.fault := rfl
@[simp] theorem State.advance_fb (s : State) : (s.advance).fb = s.fb := rfl
@[simp] theorem State.advance_tone (s : State) : (s.advance).tone = s.tone := rfl
@[simp] theorem State.advance_trace (s : State) : (s.advance).trace = s.trace := rfl
@[simp] theorem State.advance_draws (s : State) : (s.advance).draws = s.draws := rfl

/-! `State.setPc`. -/

@[simp] theorem State.setPc_v (s : State) (w : Word) : (s.setPc w).v = s.v := rfl
@[simp] theorem State.setPc_i (s : State) (w : Word) : (s.setPc w).i = s.i := rfl
@[simp] theorem State.setPc_pc (s : State) (w : Word) : (s.setPc w).pc = w := rfl
@[simp] theorem State.setPc_stack (s : State) (w : Word) : (s.setPc w).stack = s.stack := rfl
@[simp] theorem State.setPc_sp (s : State) (w : Word) : (s.setPc w).sp = s.sp := rfl
@[simp] theorem State.setPc_dt (s : State) (w : Word) : (s.setPc w).dt = s.dt := rfl
@[simp] theorem State.setPc_st (s : State) (w : Word) : (s.setPc w).st = s.st := rfl
@[simp] theorem State.setPc_keys (s : State) (w : Word) : (s.setPc w).keys = s.keys := rfl
@[simp] theorem State.setPc_wait (s : State) (w : Word) : (s.setPc w).wait = s.wait := rfl
@[simp] theorem State.setPc_waitReg (s : State) (w : Word) : (s.setPc w).waitReg = s.waitReg := rfl
@[simp] theorem State.setPc_mem (s : State) (w : Word) : (s.setPc w).mem = s.mem := rfl
@[simp] theorem State.setPc_fault (s : State) (w : Word) : (s.setPc w).fault = s.fault := rfl
@[simp] theorem State.setPc_fb (s : State) (w : Word) : (s.setPc w).fb = s.fb := rfl
@[simp] theorem State.setPc_tone (s : State) (w : Word) : (s.setPc w).tone = s.tone := rfl
@[simp] theorem State.setPc_trace (s : State) (w : Word) : (s.setPc w).trace = s.trace := rfl
@[simp] theorem State.setPc_draws (s : State) (w : Word) : (s.setPc w).draws = s.draws := rfl

/-! `State.skipIf`. -/

@[simp] theorem State.skipIf_v (s : State) (c : Bool) : (s.skipIf c).v = s.v := rfl
@[simp] theorem State.skipIf_i (s : State) (c : Bool) : (s.skipIf c).i = s.i := rfl
@[simp] theorem State.skipIf_pc (s : State) (c : Bool) : (s.skipIf c).pc = if c then s.pc + 2 else s.pc := rfl
@[simp] theorem State.skipIf_stack (s : State) (c : Bool) : (s.skipIf c).stack = s.stack := rfl
@[simp] theorem State.skipIf_sp (s : State) (c : Bool) : (s.skipIf c).sp = s.sp := rfl
@[simp] theorem State.skipIf_dt (s : State) (c : Bool) : (s.skipIf c).dt = s.dt := rfl
@[simp] theorem State.skipIf_st (s : State) (c : Bool) : (s.skipIf c).st = s.st := rfl
@[simp] theorem State.skipIf_keys (s : State) (c : Bool) : (s.skipIf c).keys = s.keys := rfl
@[simp] theorem State.skipIf_wait (s : State) (c : Bool) : (s.skipIf c).wait = s.wait := rfl
@[simp] theorem State.skipIf_waitReg (s : State) (c : Bool) : (s.skipIf c).waitReg = s.waitReg := rfl
@[simp] theorem State.skipIf_mem (s : State) (c : Bool) : (s.skipIf c).mem = s.mem := rfl
@[simp] theorem State.skipIf_fault (s : State) (c : Bool) : (s.skipIf c).fault = s.fault := rfl
@[simp] theorem State.skipIf_fb (s : State) (c : Bool) : (s.skipIf c).fb = s.fb := rfl
@[simp] theorem State.skipIf_tone (s : State) (c : Bool) : (s.skipIf c).tone = s.tone := rfl
@[simp] theorem State.skipIf_trace (s : State) (c : Bool) : (s.skipIf c).trace = s.trace := rfl
@[simp] theorem State.skipIf_draws (s : State) (c : Bool) : (s.skipIf c).draws = s.draws := rfl

/-! `State.push`. -/

@[simp] theorem State.push_v (s : State) (j : Fin 16) : (s.push j).v = s.v := rfl
@[simp] theorem State.push_i (s : State) (j : Fin 16) : (s.push j).i = s.i := rfl
@[simp] theorem State.push_pc (s : State) (j : Fin 16) : (s.push j).pc = s.pc := rfl
@[simp] theorem State.push_stack (s : State) (j : Fin 16) : (s.push j).stack = s.stack.set j.val s.pc j.isLt := rfl
@[simp] theorem State.push_sp (s : State) (j : Fin 16) : (s.push j).sp = StackPtr.below j := rfl
@[simp] theorem State.push_dt (s : State) (j : Fin 16) : (s.push j).dt = s.dt := rfl
@[simp] theorem State.push_st (s : State) (j : Fin 16) : (s.push j).st = s.st := rfl
@[simp] theorem State.push_keys (s : State) (j : Fin 16) : (s.push j).keys = s.keys := rfl
@[simp] theorem State.push_wait (s : State) (j : Fin 16) : (s.push j).wait = s.wait := rfl
@[simp] theorem State.push_waitReg (s : State) (j : Fin 16) : (s.push j).waitReg = s.waitReg := rfl
@[simp] theorem State.push_mem (s : State) (j : Fin 16) : (s.push j).mem = s.mem := rfl
@[simp] theorem State.push_fault (s : State) (j : Fin 16) : (s.push j).fault = s.fault := rfl
@[simp] theorem State.push_fb (s : State) (j : Fin 16) : (s.push j).fb = s.fb := rfl
@[simp] theorem State.push_tone (s : State) (j : Fin 16) : (s.push j).tone = s.tone := rfl
@[simp] theorem State.push_trace (s : State) (j : Fin 16) : (s.push j).trace = s.trace := rfl
@[simp] theorem State.push_draws (s : State) (j : Fin 16) : (s.push j).draws = s.draws := rfl

/-! `State.pop`. -/

@[simp] theorem State.pop_v (s : State) (j : Fin 16) : (s.pop j).v = s.v := rfl
@[simp] theorem State.pop_i (s : State) (j : Fin 16) : (s.pop j).i = s.i := rfl
@[simp] theorem State.pop_pc (s : State) (j : Fin 16) : (s.pop j).pc = s.stack[j] := rfl
@[simp] theorem State.pop_stack (s : State) (j : Fin 16) : (s.pop j).stack = s.stack := rfl
@[simp] theorem State.pop_sp (s : State) (j : Fin 16) : (s.pop j).sp = .slot j := rfl
@[simp] theorem State.pop_dt (s : State) (j : Fin 16) : (s.pop j).dt = s.dt := rfl
@[simp] theorem State.pop_st (s : State) (j : Fin 16) : (s.pop j).st = s.st := rfl
@[simp] theorem State.pop_keys (s : State) (j : Fin 16) : (s.pop j).keys = s.keys := rfl
@[simp] theorem State.pop_wait (s : State) (j : Fin 16) : (s.pop j).wait = s.wait := rfl
@[simp] theorem State.pop_waitReg (s : State) (j : Fin 16) : (s.pop j).waitReg = s.waitReg := rfl
@[simp] theorem State.pop_mem (s : State) (j : Fin 16) : (s.pop j).mem = s.mem := rfl
@[simp] theorem State.pop_fault (s : State) (j : Fin 16) : (s.pop j).fault = s.fault := rfl
@[simp] theorem State.pop_fb (s : State) (j : Fin 16) : (s.pop j).fb = s.fb := rfl
@[simp] theorem State.pop_tone (s : State) (j : Fin 16) : (s.pop j).tone = s.tone := rfl
@[simp] theorem State.pop_trace (s : State) (j : Fin 16) : (s.pop j).trace = s.trace := rfl
@[simp] theorem State.pop_draws (s : State) (j : Fin 16) : (s.pop j).draws = s.draws := rfl

/-! `State.emit`. -/

@[simp] theorem State.emit_v (s : State) (e : Event) : (s.emit e).v = s.v := rfl
@[simp] theorem State.emit_i (s : State) (e : Event) : (s.emit e).i = s.i := rfl
@[simp] theorem State.emit_pc (s : State) (e : Event) : (s.emit e).pc = s.pc := rfl
@[simp] theorem State.emit_stack (s : State) (e : Event) : (s.emit e).stack = s.stack := rfl
@[simp] theorem State.emit_sp (s : State) (e : Event) : (s.emit e).sp = s.sp := rfl
@[simp] theorem State.emit_dt (s : State) (e : Event) : (s.emit e).dt = s.dt := rfl
@[simp] theorem State.emit_st (s : State) (e : Event) : (s.emit e).st = s.st := rfl
@[simp] theorem State.emit_keys (s : State) (e : Event) : (s.emit e).keys = s.keys := rfl
@[simp] theorem State.emit_wait (s : State) (e : Event) : (s.emit e).wait = s.wait := rfl
@[simp] theorem State.emit_waitReg (s : State) (e : Event) : (s.emit e).waitReg = s.waitReg := rfl
@[simp] theorem State.emit_mem (s : State) (e : Event) : (s.emit e).mem = s.mem := rfl
@[simp] theorem State.emit_fault (s : State) (e : Event) : (s.emit e).fault = s.fault := rfl
@[simp] theorem State.emit_fb (s : State) (e : Event) : (s.emit e).fb = e.onGrid s.fb := rfl
@[simp] theorem State.emit_tone (s : State) (e : Event) : (s.emit e).tone = e.onTone s.tone := rfl
@[simp] theorem State.emit_trace (s : State) (e : Event) : (s.emit e).trace = s.trace ++ [e] := rfl
@[simp] theorem State.emit_draws (s : State) (e : Event) : (s.emit e).draws = s.draws := rfl

/-! `State.arm`. -/

@[simp] theorem State.arm_v (s : State) (x : Reg) : (s.arm x).v = s.v := rfl
@[simp] theorem State.arm_i (s : State) (x : Reg) : (s.arm x).i = s.i := rfl
@[simp] theorem State.arm_pc (s : State) (x : Reg) : (s.arm x).pc = s.pc := rfl
@[simp] theorem State.arm_stack (s : State) (x : Reg) : (s.arm x).stack = s.stack := rfl
@[simp] theorem State.arm_sp (s : State) (x : Reg) : (s.arm x).sp = s.sp := rfl
@[simp] theorem State.arm_dt (s : State) (x : Reg) : (s.arm x).dt = s.dt := rfl
@[simp] theorem State.arm_st (s : State) (x : Reg) : (s.arm x).st = s.st := rfl
@[simp] theorem State.arm_keys (s : State) (x : Reg) : (s.arm x).keys = s.keys := rfl
@[simp] theorem State.arm_wait (s : State) (x : Reg) : (s.arm x).wait = true := rfl
@[simp] theorem State.arm_waitReg (s : State) (x : Reg) : (s.arm x).waitReg = x := rfl
@[simp] theorem State.arm_mem (s : State) (x : Reg) : (s.arm x).mem = s.mem := rfl
@[simp] theorem State.arm_fault (s : State) (x : Reg) : (s.arm x).fault = s.fault := rfl
@[simp] theorem State.arm_fb (s : State) (x : Reg) : (s.arm x).fb = s.fb := rfl
@[simp] theorem State.arm_tone (s : State) (x : Reg) : (s.arm x).tone = s.tone := rfl
@[simp] theorem State.arm_trace (s : State) (x : Reg) : (s.arm x).trace = s.trace := rfl
@[simp] theorem State.arm_draws (s : State) (x : Reg) : (s.arm x).draws = s.draws := rfl

/-! `State.raise`. -/

@[simp] theorem State.raise_v (s : State) (c : Cause) (info : Nat) : (s.raise c info).v = s.v := rfl
@[simp] theorem State.raise_i (s : State) (c : Cause) (info : Nat) : (s.raise c info).i = s.i := rfl
@[simp] theorem State.raise_pc (s : State) (c : Cause) (info : Nat) : (s.raise c info).pc = s.pc := rfl
@[simp] theorem State.raise_stack (s : State) (c : Cause) (info : Nat) : (s.raise c info).stack = s.stack := rfl
@[simp] theorem State.raise_sp (s : State) (c : Cause) (info : Nat) : (s.raise c info).sp = s.sp := rfl
@[simp] theorem State.raise_dt (s : State) (c : Cause) (info : Nat) : (s.raise c info).dt = s.dt := rfl
@[simp] theorem State.raise_st (s : State) (c : Cause) (info : Nat) : (s.raise c info).st = s.st := rfl
@[simp] theorem State.raise_keys (s : State) (c : Cause) (info : Nat) : (s.raise c info).keys = s.keys := rfl
@[simp] theorem State.raise_wait (s : State) (c : Cause) (info : Nat) : (s.raise c info).wait = s.wait := rfl
@[simp] theorem State.raise_waitReg (s : State) (c : Cause) (info : Nat) :
    (s.raise c info).waitReg = s.waitReg := rfl
@[simp] theorem State.raise_mem (s : State) (c : Cause) (info : Nat) : (s.raise c info).mem = s.mem := rfl
@[simp] theorem State.raise_fault (s : State) (c : Cause) (info : Nat) :
    (s.raise c info).fault = { cause := c, pc := s.pc, info := info } := rfl
@[simp] theorem State.raise_fb (s : State) (c : Cause) (info : Nat) : (s.raise c info).fb = s.fb := rfl
@[simp] theorem State.raise_tone (s : State) (c : Cause) (info : Nat) : (s.raise c info).tone = s.tone := rfl
@[simp] theorem State.raise_trace (s : State) (c : Cause) (info : Nat) :
    (s.raise c info).trace = s.trace ++ [.diagFault c s.pc info] := rfl
@[simp] theorem State.raise_draws (s : State) (c : Cause) (info : Nat) : (s.raise c info).draws = s.draws := rfl

/-! `State.writeWithFlag`. -/

@[simp] theorem State.writeWithFlag_v (s : State) (x : Reg) (b f : Byte) :
    (s.writeWithFlag x b f).v = (s.v.set x.val b x.isLt).set vf.val f vf.isLt := rfl
@[simp] theorem State.writeWithFlag_i (s : State) (x : Reg) (b f : Byte) : (s.writeWithFlag x b f).i = s.i := rfl
@[simp] theorem State.writeWithFlag_pc (s : State) (x : Reg) (b f : Byte) : (s.writeWithFlag x b f).pc = s.pc := rfl
@[simp] theorem State.writeWithFlag_stack (s : State) (x : Reg) (b f : Byte) :
    (s.writeWithFlag x b f).stack = s.stack := rfl
@[simp] theorem State.writeWithFlag_sp (s : State) (x : Reg) (b f : Byte) : (s.writeWithFlag x b f).sp = s.sp := rfl
@[simp] theorem State.writeWithFlag_dt (s : State) (x : Reg) (b f : Byte) : (s.writeWithFlag x b f).dt = s.dt := rfl
@[simp] theorem State.writeWithFlag_st (s : State) (x : Reg) (b f : Byte) : (s.writeWithFlag x b f).st = s.st := rfl
@[simp] theorem State.writeWithFlag_keys (s : State) (x : Reg) (b f : Byte) :
    (s.writeWithFlag x b f).keys = s.keys := rfl
@[simp] theorem State.writeWithFlag_wait (s : State) (x : Reg) (b f : Byte) :
    (s.writeWithFlag x b f).wait = s.wait := rfl
@[simp] theorem State.writeWithFlag_waitReg (s : State) (x : Reg) (b f : Byte) :
    (s.writeWithFlag x b f).waitReg = s.waitReg := rfl
@[simp] theorem State.writeWithFlag_mem (s : State) (x : Reg) (b f : Byte) :
    (s.writeWithFlag x b f).mem = s.mem := rfl
@[simp] theorem State.writeWithFlag_fault (s : State) (x : Reg) (b f : Byte) :
    (s.writeWithFlag x b f).fault = s.fault := rfl
@[simp] theorem State.writeWithFlag_fb (s : State) (x : Reg) (b f : Byte) : (s.writeWithFlag x b f).fb = s.fb := rfl
@[simp] theorem State.writeWithFlag_tone (s : State) (x : Reg) (b f : Byte) :
    (s.writeWithFlag x b f).tone = s.tone := rfl
@[simp] theorem State.writeWithFlag_trace (s : State) (x : Reg) (b f : Byte) :
    (s.writeWithFlag x b f).trace = s.trace := rfl
@[simp] theorem State.writeWithFlag_draws (s : State) (x : Reg) (b f : Byte) :
    (s.writeWithFlag x b f).draws = s.draws := rfl

/-! `State.draw8`. -/

@[simp] theorem State.draw8_snd_v (s : State) : (s.draw8.2).v = s.v := rfl
@[simp] theorem State.draw8_snd_i (s : State) : (s.draw8.2).i = s.i := rfl
@[simp] theorem State.draw8_snd_pc (s : State) : (s.draw8.2).pc = s.pc := rfl
@[simp] theorem State.draw8_snd_stack (s : State) : (s.draw8.2).stack = s.stack := rfl
@[simp] theorem State.draw8_snd_sp (s : State) : (s.draw8.2).sp = s.sp := rfl
@[simp] theorem State.draw8_snd_dt (s : State) : (s.draw8.2).dt = s.dt := rfl
@[simp] theorem State.draw8_snd_st (s : State) : (s.draw8.2).st = s.st := rfl
@[simp] theorem State.draw8_snd_keys (s : State) : (s.draw8.2).keys = s.keys := rfl
@[simp] theorem State.draw8_snd_wait (s : State) : (s.draw8.2).wait = s.wait := rfl
@[simp] theorem State.draw8_snd_waitReg (s : State) : (s.draw8.2).waitReg = s.waitReg := rfl
@[simp] theorem State.draw8_snd_mem (s : State) : (s.draw8.2).mem = s.mem := rfl
@[simp] theorem State.draw8_snd_fault (s : State) : (s.draw8.2).fault = s.fault := rfl
@[simp] theorem State.draw8_snd_fb (s : State) : (s.draw8.2).fb = s.fb := rfl
@[simp] theorem State.draw8_snd_tone (s : State) : (s.draw8.2).tone = s.tone := rfl
@[simp] theorem State.draw8_snd_trace (s : State) : (s.draw8.2).trace = s.trace := rfl
@[simp] theorem State.draw8_snd_draws (s : State) : (s.draw8.2).draws = s.draws + 1 := rfl

/-! `State.unrecognized`. -/

@[simp] theorem State.unrecognized_v (s : State) (op : Word) : (s.unrecognized op).v = s.v := rfl
@[simp] theorem State.unrecognized_i (s : State) (op : Word) : (s.unrecognized op).i = s.i := rfl
@[simp] theorem State.unrecognized_pc (s : State) (op : Word) : (s.unrecognized op).pc = nextPc s.pc := rfl
@[simp] theorem State.unrecognized_stack (s : State) (op : Word) : (s.unrecognized op).stack = s.stack := rfl
@[simp] theorem State.unrecognized_sp (s : State) (op : Word) : (s.unrecognized op).sp = s.sp := rfl
@[simp] theorem State.unrecognized_dt (s : State) (op : Word) : (s.unrecognized op).dt = s.dt := rfl
@[simp] theorem State.unrecognized_st (s : State) (op : Word) : (s.unrecognized op).st = s.st := rfl
@[simp] theorem State.unrecognized_keys (s : State) (op : Word) : (s.unrecognized op).keys = s.keys := rfl
@[simp] theorem State.unrecognized_wait (s : State) (op : Word) : (s.unrecognized op).wait = s.wait := rfl
@[simp] theorem State.unrecognized_waitReg (s : State) (op : Word) : (s.unrecognized op).waitReg = s.waitReg := rfl
@[simp] theorem State.unrecognized_mem (s : State) (op : Word) : (s.unrecognized op).mem = s.mem := rfl
@[simp] theorem State.unrecognized_fault (s : State) (op : Word) : (s.unrecognized op).fault = s.fault := rfl
@[simp] theorem State.unrecognized_fb (s : State) (op : Word) : (s.unrecognized op).fb = s.fb := rfl
@[simp] theorem State.unrecognized_tone (s : State) (op : Word) : (s.unrecognized op).tone = s.tone := rfl
@[simp] theorem State.unrecognized_trace (s : State) (op : Word) :
    (s.unrecognized op).trace = s.trace ++ [.diagUnrecognized op s.pc] := rfl
@[simp] theorem State.unrecognized_draws (s : State) (op : Word) : (s.unrecognized op).draws = s.draws := rfl

end Sys2Proof.Machine
end

