-- ==== Sys2Proof/Laws/Memory.lean ====
section
/-! SUPPORT. Laws/Memory.lean: a read after a write, and the canonical form. The laws hold of every list of cells,
canonical or not. -/

namespace Sys2Proof.Machine

@[simp] theorem Memory.read_nil (a : Nat) : Memory.read [] a = Memory.initial a := rfl

theorem Memory.read_cons (b : Nat) (w : Byte) (m : Memory) (a : Nat) :
    Memory.read ((b, w) :: m) a = if b = a then w else Memory.read m a := rfl

theorem Memory.read_filter_same (m : Memory) (a : Nat) :
    Memory.read (m.filter fun c => c.1 != a) a = Memory.initial a := by
  induction m with
  | nil => rfl
  | cons c m ih =>
    obtain ⟨b, w⟩ := c
    by_cases h : b = a
    · simpa [List.filter_cons, h] using ih
    · simpa [List.filter_cons, h, Memory.read_cons] using ih

theorem Memory.read_filter_other (m : Memory) {a b : Nat} (h : b ≠ a) :
    Memory.read (m.filter fun c => c.1 != a) b = Memory.read m b := by
  induction m with
  | nil => rfl
  | cons c m ih =>
    obtain ⟨d, w⟩ := c
    by_cases hd : d = a
    · simp [hd, Memory.read_cons, Ne.symm h, ih]
    · simp [hd, Memory.read_cons, ih]

theorem Memory.read_insertCell_same (m : Memory) (a : Nat) (w : Byte) (h : ∀ c ∈ m, c.1 ≠ a) :
    Memory.read (Memory.insertCell m a w) a = w := by
  induction m with
  | nil => simp [Memory.insertCell, Memory.read_cons]
  | cons c m ih =>
    obtain ⟨b, u⟩ := c
    have hb : b ≠ a := h (b, u) (by simp)
    simp only [Memory.insertCell]
    split
    · simp [Memory.read_cons]
    · simp only [Memory.read_cons, hb, if_false]
      exact ih fun c hc => h c (by simp [hc])

theorem Memory.read_insertCell_other (m : Memory) {a b : Nat} (w : Byte) (h : b ≠ a) :
    Memory.read (Memory.insertCell m a w) b = Memory.read m b := by
  induction m with
  | nil => simp [Memory.insertCell, Memory.read_cons, Ne.symm h]
  | cons c m ih =>
    obtain ⟨d, u⟩ := c
    simp only [Memory.insertCell]
    split
    · rw [Memory.read_cons, if_neg (Ne.symm h)]
    · simp only [Memory.read_cons, ih]

/-- A read after a write to the same address gives the byte written. -/
@[simp] theorem Memory.read_write_same (m : Memory) (a : Nat) (w : Byte) : (m.write a w).read a = w := by
  simp only [Memory.write]
  split
  · next h => rw [Memory.read_filter_same, h]
  · exact Memory.read_insertCell_same _ _ _ fun c hc => by simpa using (List.mem_filter.1 hc).2

/-- A write leaves every other address alone. -/
theorem Memory.read_write_other (m : Memory) {a b : Nat} (w : Byte) (h : b ≠ a) :
    (m.write a w).read b = m.read b := by
  simp only [Memory.write]
  split
  · exact Memory.read_filter_other m h
  · rw [Memory.read_insertCell_other _ _ h, Memory.read_filter_other _ h]

theorem Memory.read_write (m : Memory) (a b : Nat) (w : Byte) :
    (m.write a w).read b = if b = a then w else m.read b := by
  split
  · next h => rw [h, Memory.read_write_same]
  · next h => exact Memory.read_write_other m w h

/-- What a run of stored bytes reads as: the bytes inside their range, the old bytes outside. -/
theorem Memory.read_writeBytes (bs : List Byte) (m : Memory) (a b : Nat) :
    (m.writeBytes a bs).read b = if a ≤ b then bs.getD (b - a) (m.read b) else m.read b := by
  induction bs generalizing m a with
  | nil => simp [Memory.writeBytes]
  | cons w bs ih =>
    rw [Memory.writeBytes, ih, Memory.read_write]
    rcases Nat.lt_trichotomy b a with h | h | h
    · simp [show ¬ a + 1 ≤ b by omega, show ¬ a ≤ b by omega, show b ≠ a by omega]
    · simp [h]
    · obtain ⟨k, hk⟩ : ∃ k, b - a = k + 1 := ⟨b - a - 1, by omega⟩
      simp [show a + 1 ≤ b by omega, show a ≤ b by omega, show b ≠ a by omega, hk, show b - (a + 1) = k by omega]

theorem Memory.length_readBytes (m : Memory) (a k : Nat) : (m.readBytes a k).length = k := by
  induction k generalizing a with
  | zero => rfl
  | succ k ih => simp [Memory.readBytes, ih]

theorem Memory.getElem_readBytes (m : Memory) (a k j : Nat) (h : j < (m.readBytes a k).length) :
    (m.readBytes a k)[j] = m.read (a + j) := by
  induction k generalizing a j with
  | zero => simp [Memory.readBytes] at h
  | succ k ih =>
    cases j with
    | zero => simp [Memory.readBytes]
    | succ j => simp only [Memory.readBytes, List.getElem_cons_succ, ih]; congr 1; omega

/-! The canonical form. -/

theorem Memory.wf_nil : Memory.wf [] := by simp [Memory.wf]

theorem Memory.mem_insertCell {m : Memory} {a : Nat} {w : Byte} {c : Host.Cell} :
    c ∈ Memory.insertCell m a w ↔ c = (a, w) ∨ c ∈ m := by
  induction m with
  | nil => simp [Memory.insertCell]
  | cons d m ih =>
    obtain ⟨b, u⟩ := d
    simp only [Memory.insertCell]
    split
    · simp
    · simp only [List.mem_cons, ih]; tauto

theorem Memory.pairwise_insertCell {m : Memory} {a : Nat} {w : Byte}
    (h : m.Pairwise fun c d => c.1 < d.1) (ha : ∀ c ∈ m, c.1 ≠ a) :
    (Memory.insertCell m a w).Pairwise fun c d => c.1 < d.1 := by
  induction m with
  | nil => simp [Memory.insertCell]
  | cons d m ih =>
    obtain ⟨b, u⟩ := d
    have hb : b ≠ a := ha (b, u) (by simp)
    obtain ⟨h1, h2⟩ := List.pairwise_cons.1 h
    simp only [Memory.insertCell]
    split
    · next hlt =>
      refine List.pairwise_cons.2 ⟨fun c hc => ?_, h⟩
      rcases List.mem_cons.1 hc with rfl | hc
      · exact hlt
      · exact Nat.lt_trans hlt (h1 c hc)
    · next hlt =>
      refine List.pairwise_cons.2 ⟨fun c hc => ?_, ih h2 fun c hc => ha c (by simp [hc])⟩
      rcases Memory.mem_insertCell.1 hc with rfl | hc
      · simp only; omega
      · exact h1 c hc

/-- A write inside the memory keeps the canonical form. -/
theorem Memory.wf_write {m : Memory} (h : m.wf) {a : Nat} (ha : a < 4096) (w : Byte) : (m.write a w).wf := by
  obtain ⟨h1, h2⟩ := h
  have hf : ∀ c ∈ m.filter (fun c => c.1 != a), c ∈ m ∧ c.1 ≠ a := fun c hc => by
    simpa using List.mem_filter.1 hc
  simp only [Memory.write]
  split
  · exact ⟨h1.filter _, fun c hc => h2 c (hf c hc).1⟩
  · next hw =>
    refine ⟨Memory.pairwise_insertCell (h1.filter _) fun c hc => (hf c hc).2, fun c hc => ?_⟩
    rcases Memory.mem_insertCell.1 hc with rfl | hc
    · exact ⟨ha, hw⟩
    · exact h2 c (hf c hc).1

/-- Stored bytes that lie in the memory keep the canonical form. -/
theorem Memory.wf_writeBytes {m : Memory} (h : m.wf) (bs : List Byte) {a : Nat} (ha : a + bs.length ≤ 4096) :
    (m.writeBytes a bs).wf := by
  induction bs generalizing m a with
  | nil => exact h
  | cons w bs ih =>
    simp only [List.length_cons] at ha
    exact ih (Memory.wf_write h (by omega) w) (by omega)

/-- Reset's memory is canonical. -/
theorem Memory.wf_afterReset (P : Config.Params) : (Memory.afterReset P).wf :=
  Memory.wf_writeBytes Memory.wf_nil _ (by simp)

/-- With the default font nothing is listed. -/
theorem Memory.afterReset_default : Memory.afterReset defaultParams = [] := by decide

end Sys2Proof.Machine
end

