-- ==== Sys2Proof/Laws/Ops.lean ====
section
/-! SUPPORT. Laws/Ops.lean: one lemma per shared operation, which says once all it can do. -/

namespace Sys2Proof.Machine

/-! Bounds (20_memory.md R65, R69). -/

theorem rangeFault_eq_none {base len : Nat} : rangeFault base len = none ↔ len = 0 ∨ base + len ≤ 4096 := by
  simp only [rangeFault, Config.memSize]; split <;> simp <;> omega

theorem rangeFault_eq_some {base len a : Nat} :
    rangeFault base len = some a ↔ 0 < len ∧ 4096 < base + len ∧ a = max base 4096 := by
  simp only [rangeFault, Config.memSize]; split
  · simp only [Option.some.injEq]; omega
  · simp only [reduceCtorEq, false_iff]; omega

/-- The address a failed check reports is the lowest address of the range that is 4096 or more (R69). -/
theorem rangeFault_lowest {base len a : Nat} (h : rangeFault base len = some a) :
    (∃ k < len, a = base + k) ∧ 4096 ≤ a ∧ ∀ k < len, 4096 ≤ base + k → a ≤ base + k := by
  obtain ⟨h1, h2, rfl⟩ := rangeFault_eq_some.1 h
  refine ⟨⟨max base 4096 - base, by omega, by omega⟩, by omega, fun k _ _ => by omega⟩

/-! Program counter (40_step_cycle.md R123). -/

theorem toNat_nextPc (a : Word) : (nextPc a).toNat = if 4096 ≤ a.toNat + 2 then 0x200 else a.toNat + 2 := by
  simp only [nextPc, Config.memSize, Config.progStart]
  split
  · rfl
  · rw [BitVec.toNat_add, show (2 : Word).toNat = 2 from rfl]; omega

/-- The advanced `PC` is always inside the memory. -/
theorem nextPc_lt (a : Word) : (nextPc a).toNat < 4096 := by rw [toNat_nextPc]; split <;> omega

/-- A skip from an advanced `PC` does not overflow 16 bits. -/
theorem toNat_skip (a : Word) (c : Prop) [Decidable c] :
    (if c then nextPc a + 2 else nextPc a).toNat = (nextPc a).toNat + if c then 2 else 0 := by
  have := nextPc_lt a
  split
  · rw [BitVec.toNat_add, show (2 : Word).toNat = 2 from rfl]; omega
  · rfl

@[simp] theorem toNat_addrOf (nnn : Addr12) : (addrOf nnn).toNat = nnn.toNat := by
  simp only [addrOf, BitVec.toNat_setWidth]; omega

theorem toNat_indexedTarget (b : Byte) (nnn : Addr12) : (indexedTarget b nnn).toNat = b.toNat + nnn.toNat := by
  simp only [indexedTarget, BitVec.toNat_add, BitVec.toNat_setWidth]; omega

theorem toNat_glyphAddr (b : Byte) : (glyphAddr b).toNat = 5 * b.toNat := by
  simp only [glyphAddr, Config.glyphStride, BitVec.toNat_ofNat]; omega

/-! Fetch (R122). -/

/-- All a fetch can give: the two bytes at `PC`, or the first of the two addresses that is 4096 or more. -/
theorem fetch_cases (s : State) :
    (s.pc.toNat ≤ 4094 ∧ s.fetch = .word (wordOfBytes (s.mem.read s.pc.toNat) (s.mem.read (s.pc.toNat + 1)))) ∨
      (4095 ≤ s.pc.toNat ∧ s.fetch = .outside (max s.pc.toNat 4096)) := by
  simp only [State.fetch, Config.memSize]
  split
  · exact .inr ⟨by omega, by congr; omega⟩
  · split
    · exact .inr ⟨by omega, by congr; omega⟩
    · exact .inl ⟨by omega, rfl⟩

/-! Registers. -/

/-- A register after a write (10_state.md R21). -/
theorem writeReg_get (s : State) (x r : Reg) (b : Byte) :
    (s.writeReg x b).v[r] = if r = x then b else s.v[r] := by
  simp only [State.writeReg_v, Fin.getElem_fin, Vector.getElem_set, Fin.ext_iff, eq_comm]

/-- A register after a result and a flag: VF is the flag, whatever `x` is (42_alu.md R171). -/
theorem writeWithFlag_get (s : State) (x r : Reg) (b f : Byte) :
    (s.writeWithFlag x b f).v[r] = if r = 15 then f else if r = x then b else s.v[r] := by
  rw [State.writeWithFlag, writeReg_get, writeReg_get]

/-- VF after a result and a flag, by its number. -/
@[simp] theorem writeWithFlag_vf (s : State) (x : Reg) (b f : Byte) : (s.writeWithFlag x b f).v[15] = f :=
  (writeWithFlag_get s x 15 b f).trans (if_pos rfl)

/-- The value of a flag byte. -/
@[simp] theorem toNat_flagByte (b : Bool) : (flagByte b).toNat = if b then 1 else 0 := by cases b <;> rfl

theorem toNat_shrFlag (p : Byte) : (shrFlag p).toNat = p.toNat % 2 := by revert p; decide

theorem toNat_shlFlag (p : Byte) : (shlFlag p).toNat = p.toNat / 128 := by revert p; decide

theorem getElem_regsFrom (bs : List Byte) (v : Vector Byte 16) (k : Nat) (r : Nat) (hr : r < 16) :
    (regsFrom v k bs)[r] = if k ≤ r then bs.getD (r - k) v[r] else v[r] := by
  induction bs generalizing v k with
  | nil => simp [regsFrom]
  | cons b bs ih =>
    rw [regsFrom, ih, Vector.getElem_setIfInBounds]
    rcases Nat.lt_trichotomy r k with h | h | h
    · simp [show ¬ k + 1 ≤ r by omega, show ¬ k ≤ r by omega, show k ≠ r by omega]
    · simp [h]
    · obtain ⟨j, hj⟩ : ∃ j, r - k = j + 1 := ⟨r - k - 1, by omega⟩
      simp [show k + 1 ≤ r by omega, show k ≤ r by omega, show k ≠ r by omega, hj, show r - (k + 1) = j by omega]

theorem length_regsUpTo (s : State) (x : Reg) : (s.regsUpTo x).length = x.val + 1 := by
  simp [State.regsUpTo]

theorem getElem_regsUpTo (s : State) (x k : Reg) (h : k.val < (s.regsUpTo x).length) :
    (s.regsUpTo x)[k.val] = s.v[k] := by
  simp [State.regsUpTo]

theorem length_bcdDigits (b : Byte) : (bcdDigits b).length = 3 := rfl

/-! Stack (10_state.md R27). -/

theorem toInt_below (j : Fin 16) : (StackPtr.below j).toInt = (j.val : Int) - 1 := by
  revert j; decide

theorem popSlot_eq_none {p : StackPtr} : p.popSlot = none ↔ p = .slot 15 := by
  cases p with
  | full => simp [StackPtr.popSlot]
  | slot j => simp [StackPtr.popSlot]

theorem popSlot_eq_some {p : StackPtr} {j : Fin 16} (h : p.popSlot = some j) : (j.val : Int) = p.toInt + 1 := by
  cases p with
  | full => simp only [StackPtr.popSlot, Option.some.injEq] at h; subst h; rfl
  | slot i =>
    simp only [StackPtr.popSlot] at h
    split at h
    · cases h
    · simp only [Option.some.injEq] at h; subst h
      have : i.val ≠ 15 := fun h => by simp_all [Fin.ext_iff]
      simp only [StackPtr.toInt, Fin.val_add]; omega

/-- A pop gives back the slot a push wrote. -/
theorem popSlot_below (j : Fin 16) : (StackPtr.below j).popSlot = some j := by revert j; decide

/-! Flags (10_state.md R22). -/

theorem flagByte_cases (b : Bool) : flagByte b = 0 ∨ flagByte b = 1 := by cases b <;> simp [flagByte]

/-! Display (44_display.md R210). -/

/-- A pixel of the grid after a toggle. -/
theorem Grid.toggle_get (g : Grid) (x X : Fin 64) (y Y : Fin 32) :
    (g.toggle x y)[Y][X] = if X = x ∧ Y = y then !g[Y][X] else g[Y][X] := by
  simp only [Grid.toggle, Fin.getElem_fin, Vector.getElem_set, Fin.ext_iff]
  by_cases hy : y.val = Y.val
  · by_cases hx : x.val = X.val
    · have h1 := Fin.ext hy; have h2 := Fin.ext hx; subst h1; subst h2; simp
    · have h1 := Fin.ext hy; subst h1; simp [hx, Ne.symm hx]
  · simp [hy, Ne.symm hy]

@[simp] theorem Grid.blank_get (X Y : Nat) (hx : X < 64) (hy : Y < 32) : Grid.blank[Y][X] = false := by
  simp [Grid.blank]

/-- Toggling a list of pixels changes only the display and the trace. -/
theorem togglePixels_rest (ps : List (Fin 64 × Fin 32)) (s : State) :
    (s.togglePixels ps).1 = { s with fb := (s.togglePixels ps).1.fb, trace := s.trace ++ ps.map fun p => .toggle p.1 p.2 } := by
  induction ps generalizing s with
  | nil => simp [State.togglePixels]
  | cons p ps ih =>
    obtain ⟨x, y⟩ := p
    simp only [State.togglePixels]
    rw [ih]
    simp [State.togglePixel, State.emit]

/-- A pixel after toggling a list of distinct pixels: inverted exactly when it is in the list. -/
theorem togglePixels_get (ps : List (Fin 64 × Fin 32)) (h : ps.Nodup) (s : State) (X : Fin 64) (Y : Fin 32) :
    (s.togglePixels ps).1.fb[Y][X] = (s.fb[Y][X] ^^ decide ((X, Y) ∈ ps)) := by
  induction ps generalizing s with
  | nil => simp [State.togglePixels]
  | cons p ps ih =>
    obtain ⟨x, y⟩ := p
    obtain ⟨hp, h⟩ := List.nodup_cons.1 h
    simp only [State.togglePixels, ih h, State.togglePixel, State.emit_fb, Event.onGrid_toggle, Grid.toggle_get]
    by_cases hxy : X = x ∧ Y = y
    · obtain ⟨rfl, rfl⟩ := hxy; simp [hp]
    · have : ¬ (X, Y) = (x, y) := by simpa using hxy
      simp [hxy]

/-- The collision answer of a list of distinct pixels: some pixel in it was on. -/
theorem togglePixels_hit (ps : List (Fin 64 × Fin 32)) (h : ps.Nodup) (s : State) :
    (s.togglePixels ps).2 = true ↔ ∃ p ∈ ps, s.fb[p.2][p.1] = true := by
  induction ps generalizing s with
  | nil => simp [State.togglePixels]
  | cons p ps ih =>
    obtain ⟨x, y⟩ := p
    obtain ⟨hp, h⟩ := List.nodup_cons.1 h
    simp only [State.togglePixels, State.togglePixel, Bool.or_eq_true, ih h, State.emit_fb, Event.onGrid_toggle,
      Grid.toggle_get, List.mem_cons, exists_eq_or_imp]
    refine or_congr Iff.rfl (exists_congr fun q => and_congr_right fun hq => ?_)
    rw [if_neg]
    rintro ⟨rfl, rfl⟩
    exact hp hq

/-! Sprites (R212, R213). -/

theorem mem_rowPixels {px : Nat} {y : Fin 32} {b : Byte} {p : Fin 64 × Fin 32} :
    p ∈ rowPixels px y b ↔ ∃ c < 8, b.getLsbD (7 - c) = true ∧ p = (Fin.ofNat 64 (px + c), y) := by
  simp only [rowPixels, List.mem_filterMap, List.mem_range]
  refine exists_congr fun c => and_congr_right fun _ => ?_
  split
  · next h => simp only [Option.some.injEq, h, true_and]; exact eq_comm
  · next h => simp only [reduceCtorEq, h, false_and]

/-- The lit pixels of a sprite: one for each 1 bit, at its reduced coordinates. -/
theorem mem_spritePixels {px py r : Nat} {bs : List Byte} {p : Fin 64 × Fin 32} :
    p ∈ spritePixels px py r bs ↔ ∃ j < bs.length, ∃ c < 8, (bs.getD j 0).getLsbD (7 - c) = true ∧
      p = (Fin.ofNat 64 (px + c), Fin.ofNat 32 (py + (r + j))) := by
  induction bs generalizing r with
  | nil => simp [spritePixels]
  | cons b bs ih =>
    simp only [spritePixels, List.mem_append, ih, mem_rowPixels, List.length_cons]
    constructor
    · rintro (h | ⟨j, hj, h⟩)
      · exact ⟨0, by omega, by simpa using h⟩
      · exact ⟨j + 1, by omega, by simpa [Nat.add_assoc, Nat.add_comm 1 j] using h⟩
    · rintro ⟨j, hj, h⟩
      cases j with
      | zero => exact .inl (by simpa using h)
      | succ j => exact .inr ⟨j, by omega, by simpa [Nat.add_assoc, Nat.add_comm 1 j] using h⟩

theorem rowPixels_nodup (px : Nat) (y : Fin 32) (b : Byte) : (rowPixels px y b).Nodup := by
  rw [rowPixels, List.Nodup, List.pairwise_filterMap]
  refine List.Pairwise.imp_of_mem (fun {c d} hc hd hcd => ?_) (List.pairwise_lt_range (n := 8))
  intro p hp q hq h
  have hc := List.mem_range.1 hc
  have hd := List.mem_range.1 hd
  split at hp <;> split at hq <;> simp only [reduceCtorEq, Option.some.injEq] at hp hq
  rw [← hp, ← hq] at h
  simp only [Prod.mk.injEq, Fin.ofNat, Fin.mk.injEq, and_true] at h
  omega

/-- A pixel is toggled at most once per draw (R212 f): 8 columns are fewer than 64, 15 rows fewer than 32. -/
theorem spritePixels_nodup (px py r : Nat) (bs : List Byte) (h : bs.length ≤ 32) : (spritePixels px py r bs).Nodup := by
  induction bs generalizing r with
  | nil => simp [spritePixels]
  | cons b bs ih =>
    simp only [List.length_cons] at h
    refine List.nodup_append.2 ⟨rowPixels_nodup _ _ _, ih (r + 1) (by omega), ?_⟩
    rintro p hp q hq rfl
    obtain ⟨c, hc, -, rfl⟩ := mem_rowPixels.1 hp
    obtain ⟨j, hj, d, hd, -, h'⟩ := mem_spritePixels.1 hq
    simp only [Prod.mk.injEq, Fin.ofNat, Fin.mk.injEq] at h'
    omega

end Sys2Proof.Machine
end

