-- ==== Sys2Proof/Laws/Encoding.lean ====
section
/-! SUPPORT. Laws/Encoding.lean: the fields of an encoded word (30_encoding.md R91, R92), and a word as its fields,
all by their values as natural numbers. -/

namespace Sys2Proof

theorem toNat_append_eq {m k : Nat} (a : BitVec m) (b : BitVec k) :
    (a ++ b).toNat = a.toNat * 2 ^ k + b.toNat := by
  rw [BitVec.toNat_append, ← Nat.shiftLeft_add_eq_or_of_lt b.isLt, Nat.shiftLeft_eq]

/-! Values of fields and of formats. -/

theorem toNat_opCat (w : Word) : (opCat w).toNat = w.toNat / 4096 := by
  simp only [opCat, BitVec.extractLsb'_toNat, Nat.shiftRight_eq_div_pow]; omega

theorem val_opX (w : Word) : (opX w).val = w.toNat / 256 % 16 := by
  simp only [opX, BitVec.val_toFin, BitVec.extractLsb'_toNat, Nat.shiftRight_eq_div_pow]

theorem val_opY (w : Word) : (opY w).val = w.toNat / 16 % 16 := by
  simp only [opY, BitVec.val_toFin, BitVec.extractLsb'_toNat, Nat.shiftRight_eq_div_pow]

theorem toNat_opN (w : Word) : (opN w).toNat = w.toNat % 16 := by
  simp only [opN, BitVec.extractLsb'_toNat, Nat.shiftRight_eq_div_pow]; omega

theorem toNat_opNN (w : Word) : (opNN w).toNat = w.toNat % 256 := by
  simp only [opNN, BitVec.extractLsb'_toNat, Nat.shiftRight_eq_div_pow]; omega

theorem toNat_opNNN (w : Word) : (opNNN w).toNat = w.toNat % 4096 := by
  simp only [opNNN, BitVec.extractLsb'_toNat, Nat.shiftRight_eq_div_pow]; omega

theorem toNat_encNNN (c : Nibble) (n : Addr12) : (encNNN c n).toNat = c.toNat * 4096 + n.toNat :=
  toNat_append_eq c n

/-- A format of a high part, a register and a low part. -/
theorem toNat_append_reg {m k : Nat} (a : BitVec m) (x : Reg) (b : BitVec k) :
    ((a ++ (BitVec.ofFin x : Nibble)) ++ b).toNat = (a.toNat * 16 + x.val) * 2 ^ k + b.toNat := by
  rw [toNat_append_eq, toNat_append_eq]; rfl

theorem toNat_encXNN (c : Nibble) (x : Reg) (n : Byte) :
    (encXNN c x n).toNat = c.toNat * 4096 + x.val * 256 + n.toNat := by
  have h := toNat_append_reg c x n
  rw [show (encXNN c x n).toNat = ((c ++ (BitVec.ofFin x : Nibble)) ++ n).toNat from rfl, h]; omega

theorem toNat_encXYN (c : Nibble) (x y : Reg) (n : Nibble) :
    (encXYN c x y n).toNat = c.toNat * 4096 + x.val * 256 + y.val * 16 + n.toNat := by
  have h := toNat_append_reg (c ++ (BitVec.ofFin x : Nibble)) y n
  have h' : (c ++ (BitVec.ofFin x : Nibble)).toNat = c.toNat * 2 ^ 4 + x.val := toNat_append_eq c _
  rw [show (encXYN c x y n).toNat =
    (((c ++ (BitVec.ofFin x : Nibble)) ++ (BitVec.ofFin y : Nibble)) ++ n).toNat from rfl, h, h']; omega

theorem toNat_wordOfBytes (hi lo : Byte) : (wordOfBytes hi lo).toNat = hi.toNat * 256 + lo.toNat :=
  toNat_append_eq hi lo

/-! Each format, cut into its fields. -/

@[simp] theorem opCat_encNNN (c : Nibble) (n : Addr12) : opCat (encNNN c n) = c := by
  apply BitVec.eq_of_toNat_eq; rw [toNat_opCat, toNat_encNNN]; omega

@[simp] theorem opNNN_encNNN (c : Nibble) (n : Addr12) : opNNN (encNNN c n) = n := by
  apply BitVec.eq_of_toNat_eq; rw [toNat_opNNN, toNat_encNNN]; omega

@[simp] theorem opCat_encXNN (c : Nibble) (x : Reg) (n : Byte) : opCat (encXNN c x n) = c := by
  apply BitVec.eq_of_toNat_eq; rw [toNat_opCat, toNat_encXNN]; omega

@[simp] theorem opX_encXNN (c : Nibble) (x : Reg) (n : Byte) : opX (encXNN c x n) = x := by
  apply Fin.ext; rw [val_opX, toNat_encXNN]; omega

@[simp] theorem opNN_encXNN (c : Nibble) (x : Reg) (n : Byte) : opNN (encXNN c x n) = n := by
  apply BitVec.eq_of_toNat_eq; rw [toNat_opNN, toNat_encXNN]; omega

@[simp] theorem opCat_encXYN (c : Nibble) (x y : Reg) (n : Nibble) : opCat (encXYN c x y n) = c := by
  apply BitVec.eq_of_toNat_eq; rw [toNat_opCat, toNat_encXYN]; omega

@[simp] theorem opX_encXYN (c : Nibble) (x y : Reg) (n : Nibble) : opX (encXYN c x y n) = x := by
  apply Fin.ext; rw [val_opX, toNat_encXYN]; omega

@[simp] theorem opY_encXYN (c : Nibble) (x y : Reg) (n : Nibble) : opY (encXYN c x y n) = y := by
  apply Fin.ext; rw [val_opY, toNat_encXYN]; omega

@[simp] theorem opN_encXYN (c : Nibble) (x y : Reg) (n : Nibble) : opN (encXYN c x y n) = n := by
  apply BitVec.eq_of_toNat_eq; rw [toNat_opN, toNat_encXYN]; omega

/-! A word is its fields, in each of the three ways. -/

theorem encNNN_fields (w : Word) : encNNN (opCat w) (opNNN w) = w := by
  apply BitVec.eq_of_toNat_eq; rw [toNat_encNNN, toNat_opCat, toNat_opNNN]; omega

theorem encXNN_fields (w : Word) : encXNN (opCat w) (opX w) (opNN w) = w := by
  apply BitVec.eq_of_toNat_eq; rw [toNat_encXNN, toNat_opCat, val_opX, toNat_opNN]; omega

theorem encXYN_fields (w : Word) : encXYN (opCat w) (opX w) (opY w) (opN w) = w := by
  apply BitVec.eq_of_toNat_eq; rw [toNat_encXYN, toNat_opCat, val_opX, val_opY, toNat_opN]; omega

/-- The bytes of a word spell it (20_memory.md R64). -/
@[simp] theorem wordOfBytes_bytesOfWord (w : Word) : wordOfBytes (bytesOfWord w).1 (bytesOfWord w).2 = w := by
  apply BitVec.eq_of_toNat_eq
  simp only [toNat_wordOfBytes, bytesOfWord, BitVec.extractLsb'_toNat, Nat.shiftRight_eq_div_pow]; omega

end Sys2Proof
end

