-- ==== Sys2Proof/Laws/Step.lean ====
section
/-! SUPPORT. Laws/Step.lean: all that a step can do (40_step_cycle.md R127), and where each instruction faults. -/

namespace Sys2Proof.Machine

/-- The word at `PC`, where there is one. -/
def State.wordAtPc (s : State) : Word := wordOfBytes (s.mem.read s.pc.toNat) (s.mem.read (s.pc.toNat + 1))

theorem step_blocked {s : State} (h : ¬ s.Running) : step s = .next s := by
  simp only [step]
  split
  · rfl
  · next hf =>
    rw [if_pos]
    simpa [State.Running, not_not.1 hf] using h

theorem step_outside {s : State} (h : s.Running) (hp : 4095 ≤ s.pc.toNat) :
    step s = .next (s.raise .fetchBounds (max s.pc.toNat 4096)) := by
  rcases fetch_cases s with ⟨h', -⟩ | ⟨-, hf⟩
  · omega
  · simp [step, h.1, h.2, hf]

theorem step_word {s : State} (h : s.Running) (hp : s.pc.toNat ≤ 4094) :
    step s = match decode s.wordAtPc with
      | .instr i => exec i s
      | .unrecognized _ => .next (s.unrecognized s.wordAtPc) := by
  rcases fetch_cases s with ⟨-, hf⟩ | ⟨h', -⟩
  · simp only [step, h.1, h.2, hf]; rfl
  · omega

/-- Every outcome of a step (R127): blocked, a fetch fault, an instruction, or an unrecognized word. -/
theorem step_cases {s t : State} (h : step s = .next t) :
    (¬ s.Running ∧ t = s) ∨
      (s.Running ∧ 4095 ≤ s.pc.toNat ∧ t = s.raise .fetchBounds (max s.pc.toNat 4096)) ∨
      (s.Running ∧ s.pc.toNat ≤ 4094 ∧ ∃ i, decode s.wordAtPc = .instr i ∧ exec i s = .next t) ∨
      (s.Running ∧ s.pc.toNat ≤ 4094 ∧ ∃ g, decode s.wordAtPc = .unrecognized g ∧ t = s.unrecognized s.wordAtPc) := by
  by_cases hr : s.Running
  · by_cases hp : 4095 ≤ s.pc.toNat
    · rw [step_outside hr hp] at h
      injection h with h
      exact .inr (.inl ⟨hr, hp, h.symm⟩)
    · have hp' : s.pc.toNat ≤ 4094 := by omega
      rw [step_word hr hp'] at h
      split at h
      · next i hd => exact .inr (.inr (.inl ⟨hr, hp', i, hd, h⟩))
      · next g hd =>
        injection h with h
        exact .inr (.inr (.inr ⟨hr, hp', g, hd, h.symm⟩))
  · rw [step_blocked hr] at h
    injection h with h
    exact .inl ⟨hr, h.symm⟩

/-- All that fault entry does (60_exceptions.md R244). -/
theorem raise_entry (s : State) (c : Cause) (info : Nat) : FaultEntry c info s (s.raise c info) := by
  refine ⟨rfl, rfl, fun f hf => ?_⟩
  cases f <;> simp_all [Field.Same]

/-! The placed word. -/

/-- A placed word can always be fetched. -/
theorem withFetchWord_pc_le (s : State) (nbits w : Nat) : (s.withFetchWord nbits w).pc.toNat ≤ 4094 := by
  simp only [State.withFetchWord, Config.memSize, Config.progStart]
  split
  · omega
  · decide

theorem withFetchWord_running (s : State) (nbits w : Nat) : (s.withFetchWord nbits w).Running := ⟨rfl, rfl⟩

/-- The memory a placed word leaves. -/
theorem withFetchWord_mem (s : State) (nbits w : Nat) :
    (s.withFetchWord nbits w).mem = s.mem.writeBytes (s.withFetchWord nbits w).pc.toNat
      [(bytesOfWord (tableWord nbits w)).1, (bytesOfWord (tableWord nbits w)).2] := rfl

/-! The six instructions that can fault: the fault, and the effect. -/

theorem execRet_empty {s : State} (h : s.sp = .slot 15) : exec .ret s = .next (s.raise .stackUnderflow 0x00EE) := by
  simp [exec, execRet, h, StackPtr.popSlot, encode]

theorem execRet_pop {s : State} {j : Fin 16} (h : s.sp.popSlot = some j) :
    exec .ret s = .next (s.advance.pop j) := by
  simp [exec, execRet, h]

theorem execCall_full {s : State} (nnn : Addr12) (h : s.sp = .full) :
    exec (.call nnn) s = .next (s.raise .stackOverflow (encode (.call nnn)).toNat) := by
  simp [exec, execCall, h]

theorem execCall_push {s : State} {j : Fin 16} (nnn : Addr12) (h : s.sp = .slot j) :
    exec (.call nnn) s = .next ((s.advance.push j).setPc (addrOf nnn)) := by
  simp [exec, execCall, h]

theorem execLdB_fault {s : State} (x : Reg) (h : 4093 < s.i.toNat) :
    exec (.ldB x) s = .next (s.raise .dataWriteBounds (max s.i.toNat 4096)) := by
  have : rangeFault s.base 3 = some (max s.i.toNat 4096) := rangeFault_eq_some.2 ⟨by omega, by simp only [State.base]; omega, rfl⟩
  simp [exec, execLdB, this]

theorem execLdB_store {s : State} (x : Reg) (h : s.i.toNat ≤ 4093) :
    exec (.ldB x) s = .next (s.advance.setMem (s.mem.writeBytes s.i.toNat (bcdDigits s.v[x]))) := by
  have : rangeFault s.base 3 = none := rangeFault_eq_none.2 (.inr (by simp only [State.base]; omega))
  simp only [exec, execLdB, this]; rfl

theorem execStRegs_fault {s : State} (x : Reg) (h : 4095 < s.i.toNat + x.val) :
    exec (.stRegs x) s = .next (s.raise .dataWriteBounds (max s.i.toNat 4096)) := by
  have : rangeFault s.base (x.val + 1) = some (max s.i.toNat 4096) :=
    rangeFault_eq_some.2 ⟨by omega, by simp only [State.base]; omega, rfl⟩
  simp [exec, execStRegs, this]

theorem execStRegs_store {s : State} (x : Reg) (h : s.i.toNat + x.val ≤ 4095) :
    exec (.stRegs x) s = .next (s.advance.setMem (s.mem.writeBytes s.i.toNat (s.regsUpTo x))) := by
  have : rangeFault s.base (x.val + 1) = none := rangeFault_eq_none.2 (.inr (by simp only [State.base]; omega))
  simp only [exec, execStRegs, this]; rfl

theorem execLdRegs_fault {s : State} (x : Reg) (h : 4095 < s.i.toNat + x.val) :
    exec (.ldRegs x) s = .next (s.raise .dataReadBounds (max s.i.toNat 4096)) := by
  have : rangeFault s.base (x.val + 1) = some (max s.i.toNat 4096) :=
    rangeFault_eq_some.2 ⟨by omega, by simp only [State.base]; omega, rfl⟩
  simp [exec, execLdRegs, this]

theorem execLdRegs_load {s : State} (x : Reg) (h : s.i.toNat + x.val ≤ 4095) :
    exec (.ldRegs x) s = .next (s.advance.loadRegs (s.mem.readBytes s.i.toNat (x.val + 1))) := by
  have : rangeFault s.base (x.val + 1) = none := rangeFault_eq_none.2 (.inr (by simp only [State.base]; omega))
  simp only [exec, execLdRegs, this]; rfl

theorem execDrw_fault {s : State} (x y : Reg) (n : Nibble) (h0 : 0 < n.toNat) (h : 4096 < s.i.toNat + n.toNat) :
    exec (.drw x y n) s = .next (s.raise .dataReadBounds (max s.i.toNat 4096)) := by
  have : rangeFault s.base n.toNat = some (max s.i.toNat 4096) :=
    rangeFault_eq_some.2 ⟨h0, by simp only [State.base]; omega, rfl⟩
  simp [exec, execDrw, this]

theorem execDrw_draw {s : State} (x y : Reg) (n : Nibble) (h : n.toNat = 0 ∨ s.i.toNat + n.toNat ≤ 4096) :
    exec (.drw x y n) s = .next (((s.advance.togglePixels (s.spriteOf x y n)).1.writeReg vf
      (flagByte (s.advance.togglePixels (s.spriteOf x y n)).2)).emit .render) := by
  have : rangeFault s.base n.toNat = none := rangeFault_eq_none.2 h
  simp only [exec, execDrw, this]

end Sys2Proof.Machine
end

