-- ==== Sys2Proof/Laws/External.lean ====
section
/-! SUPPORT. Laws/External.lean: what each operation of the agents outside the core can do, once: the countdown, the
two outcomes of a tick, the pressed set, a resolved latch, and the memory a reset leaves. -/

namespace Sys2Proof.Machine

/-! Timers (60_exceptions.md R252). -/

/-- A countdown is subtraction that stops at 0. -/
@[simp] theorem toNat_countDown (b : Byte) : (countDown b).toNat = b.toNat - 1 := by revert b; decide

/-- The tick that ends the tone. -/
theorem tick_stops {s : State} (h : s.st.toNat = 1 ∨ (s.st.toNat = 0 ∧ s.tone = true)) :
    s.tick = { s with dt := countDown s.dt, st := 0, tone := false, trace := s.trace ++ [.stopTone] } := by
  rcases h with h | ⟨h, ht⟩
  · have h1 : s.st = 1 := BitVec.eq_of_toNat_eq h
    simp [State.tick, State.tickSound, State.setDt, State.setSt, h1, countDown, State.emit, Event.onGrid, Event.onTone]
  · have h0 : s.st = 0 := BitVec.eq_of_toNat_eq h
    simp [State.tick, State.tickSound, State.setDt, h0, ht, State.emit, Event.onGrid, Event.onTone]

/-- Every other tick only counts down. -/
theorem tick_counts {s : State} (h : 1 < s.st.toNat ∨ (s.st.toNat = 0 ∧ s.tone = false)) :
    s.tick = { s with dt := countDown s.dt, st := countDown s.st } := by
  rcases h with h | ⟨h, ht⟩
  · have h0 : s.st ≠ 0 := fun h0 => by rw [h0] at h; exact absurd h (by decide)
    have h1 : countDown s.st ≠ 0 := fun h1 => by
      have := toNat_countDown s.st
      rw [h1, show (0 : Byte).toNat = 0 from rfl] at this
      omega
    rw [State.tick, State.tickSound, if_pos (by exact h0), if_neg (by exact h1)]
    rfl
  · have h0 : s.st = 0 := BitVec.eq_of_toNat_eq h
    simp [State.tick, State.tickSound, State.setDt, h0, ht, countDown]

/-- A tick ends the tone or only counts down. -/
theorem tick_cases (s : State) :
    (s.st.toNat = 1 ∨ (s.st.toNat = 0 ∧ s.tone = true)) ∨ (1 < s.st.toNat ∨ (s.st.toNat = 0 ∧ s.tone = false)) := by
  cases s.tone <;> simp only [Bool.false_eq_true, and_false, and_true, reduceCtorEq] <;> omega

/-! Keys (R256, R257). -/

theorem getLsbD_pressKey (keys : BitVec 16) (k j : Key) :
    (pressKey keys k).getLsbD j.val = (decide (j = k) || keys.getLsbD j.val) := by
  rw [pressKey, BitVec.getLsbD_or, BitVec.getLsbD_shiftLeft, BitVec.getLsbD_one, Bool.or_comm]
  congr 1
  have := j.isLt
  rw [Bool.eq_iff_iff]
  simp only [Bool.and_eq_true, decide_eq_true_eq, Bool.not_eq_true', decide_eq_false_iff_not, Fin.ext_iff]
  omega

theorem getLsbD_releaseKey (keys : BitVec 16) (k j : Key) :
    (releaseKey keys k).getLsbD j.val = (!decide (j = k) && keys.getLsbD j.val) := by
  rw [releaseKey, BitVec.getLsbD_and, BitVec.getLsbD_not, BitVec.getLsbD_shiftLeft, BitVec.getLsbD_one, Bool.and_comm]
  congr 1
  have := j.isLt
  rw [Bool.eq_iff_iff]
  simp only [Bool.and_eq_true, decide_eq_true_eq, Bool.not_eq_true', decide_eq_false_iff_not, Fin.ext_iff,
    Bool.and_eq_false_iff, Bool.not_eq_false']
  omega

/-- A key event of an unmapped code changes nothing. -/
theorem keyDown_unmapped {P : Config.Params} {p : Nat} (h : keyOf P p = none) (s : State) : s.keyDown P p = s := by
  simp only [State.keyDown, h]

theorem keyUp_unmapped {P : Config.Params} {p : Nat} (h : keyOf P p = none) (s : State) : s.keyUp P p = s := by
  simp only [State.keyUp, h]

theorem keyDown_mapped {P : Config.Params} {p : Nat} {k : Key} (h : keyOf P p = some k) (s : State) :
    s.keyDown P p = State.resolveWait { s with keys := pressKey s.keys k } k := by
  simp only [State.keyDown, h]

theorem keyUp_mapped {P : Config.Params} {p : Nat} {k : Key} (h : keyOf P p = some k) (s : State) :
    s.keyUp P p = { s with keys := releaseKey s.keys k } := by
  simp only [State.keyUp, h]

/-- A latch that is not armed takes no key. -/
theorem resolveWait_idle {s : State} (h : s.wait = false) (k : Key) : s.resolveWait k = s := by
  simp [State.resolveWait, h]

/-- An armed latch takes the key. -/
theorem resolveWait_armed {s : State} (h : s.wait = true) (k : Key) :
    s.resolveWait k = { s.writeReg s.waitReg (BitVec.ofNat 8 k.val) with wait := false } := by
  simp [State.resolveWait, h]

/-! Reset (70_reset_and_hazards.md R280). -/

/-- What the memory reads after a reset. -/
theorem read_afterReset (P : Config.Params) (a : Nat) :
    (Memory.afterReset P).read a = if h : a < 80 then P.font[a] else 0 := by
  rw [Memory.afterReset, Memory.read_writeBytes, if_pos (by omega)]
  split
  · next h => rw [List.getD_eq_getElem _ _ (by simpa using h)]; simp
  · next h => rw [List.getD_eq_default _ _ (by simpa using h)]; simp [Memory.initial, h]

/-- The state a reset leaves, whole. -/
theorem resetOp_eq (P : Config.Params) (s : State) :
    s.resetOp P = { State.reset with mem := Memory.afterReset P, tone := s.tone, trace := s.trace ++ [.clear],
                                     draws := s.draws } := rfl

end Sys2Proof.Machine
end

