-- ==== Sys2Proof/Laws/PerInstr.lean ====
section
/-! SUPPORT. Laws/PerInstr.lean: the statements made instruction by instruction. Family `InRow`: the word of an
instruction selects that instruction's own row of the opcode map (30_encoding.md R96). -/

namespace Sys2Proof

/-! Each format under its row's mask. -/

theorem encNNN_and_cat (c : Nibble) (n : Addr12) : encNNN c n &&& 0xF000#16 = c ++ 0#12 := by
  rw [show (0xF000#16 : Word) = BitVec.allOnes 4 ++ 0#12 from rfl]
  exact BitVec.and_append.trans (by simp only [BitVec.and_allOnes, BitVec.and_zero])

theorem encXNN_and_cat (c : Nibble) (x : Reg) (n : Byte) : encXNN c x n &&& 0xF000#16 = c ++ 0#4 ++ 0#8 := by
  rw [show (0xF000#16 : Word) = (BitVec.allOnes 4 ++ 0#4) ++ 0#8 from rfl]
  exact BitVec.and_append.trans (by rw [BitVec.and_append]; simp only [BitVec.and_allOnes, BitVec.and_zero])

theorem encXNN_and_sub (c : Nibble) (x : Reg) (n : Byte) : encXNN c x n &&& 0xF0FF#16 = c ++ 0#4 ++ n := by
  rw [show (0xF0FF#16 : Word) = (BitVec.allOnes 4 ++ 0#4) ++ BitVec.allOnes 8 from rfl]
  exact BitVec.and_append.trans (by rw [BitVec.and_append]; simp only [BitVec.and_allOnes, BitVec.and_zero])

theorem encXYN_and_cat (c : Nibble) (x y : Reg) (n : Nibble) :
    encXYN c x y n &&& 0xF000#16 = c ++ 0#4 ++ 0#4 ++ 0#4 := by
  rw [show (0xF000#16 : Word) = ((BitVec.allOnes 4 ++ 0#4) ++ 0#4) ++ 0#4 from rfl]
  exact BitVec.and_append.trans (by rw [BitVec.and_append, BitVec.and_append]; simp only [BitVec.and_allOnes, BitVec.and_zero])

theorem encXYN_and_sub (c : Nibble) (x y : Reg) (n : Nibble) :
    encXYN c x y n &&& 0xF00F#16 = c ++ 0#4 ++ 0#4 ++ n := by
  rw [show (0xF00F#16 : Word) = ((BitVec.allOnes 4 ++ 0#4) ++ 0#4) ++ BitVec.allOnes 4 from rfl]
  exact BitVec.and_append.trans (by rw [BitVec.and_append, BitVec.and_append]; simp only [BitVec.and_allOnes, BitVec.and_zero])

end Sys2Proof

namespace Sys2Proof.Laws

/-- The word of `i` selects the row of `i`: `w & mask = match` (R96). -/
def InRow.Statement (i : Instr) : Prop := encode i &&& i.row.2 = i.row.1

theorem InRow.cls : InRow.Statement (.cls) := by unfold InRow.Statement; decide
theorem InRow.ret : InRow.Statement (.ret) := by unfold InRow.Statement; decide
theorem InRow.jp (nnn : Addr12) : InRow.Statement (.jp nnn) := encNNN_and_cat _ _
theorem InRow.call (nnn : Addr12) : InRow.Statement (.call nnn) := encNNN_and_cat _ _
theorem InRow.seImm (x : Reg) (nn : Byte) : InRow.Statement (.seImm x nn) := encXNN_and_cat _ _ _
theorem InRow.sneImm (x : Reg) (nn : Byte) : InRow.Statement (.sneImm x nn) := encXNN_and_cat _ _ _
theorem InRow.seReg (x y : Reg) (n : Nibble) : InRow.Statement (.seReg x y n) := encXYN_and_cat _ _ _ _
theorem InRow.ldImm (x : Reg) (nn : Byte) : InRow.Statement (.ldImm x nn) := encXNN_and_cat _ _ _
theorem InRow.addImm (x : Reg) (nn : Byte) : InRow.Statement (.addImm x nn) := encXNN_and_cat _ _ _
theorem InRow.ldReg (x y : Reg) : InRow.Statement (.ldReg x y) := encXYN_and_sub _ _ _ _
theorem InRow.orReg (x y : Reg) : InRow.Statement (.orReg x y) := encXYN_and_sub _ _ _ _
theorem InRow.andReg (x y : Reg) : InRow.Statement (.andReg x y) := encXYN_and_sub _ _ _ _
theorem InRow.xorReg (x y : Reg) : InRow.Statement (.xorReg x y) := encXYN_and_sub _ _ _ _
theorem InRow.addReg (x y : Reg) : InRow.Statement (.addReg x y) := encXYN_and_sub _ _ _ _
theorem InRow.subReg (x y : Reg) : InRow.Statement (.subReg x y) := encXYN_and_sub _ _ _ _
theorem InRow.shr (x y : Reg) : InRow.Statement (.shr x y) := encXYN_and_sub _ _ _ _
theorem InRow.subnReg (x y : Reg) : InRow.Statement (.subnReg x y) := encXYN_and_sub _ _ _ _
theorem InRow.shl (x y : Reg) : InRow.Statement (.shl x y) := encXYN_and_sub _ _ _ _
theorem InRow.sneReg (x y : Reg) (n : Nibble) : InRow.Statement (.sneReg x y n) := encXYN_and_cat _ _ _ _
theorem InRow.ldI (nnn : Addr12) : InRow.Statement (.ldI nnn) := encNNN_and_cat _ _
theorem InRow.jpV0 (nnn : Addr12) : InRow.Statement (.jpV0 nnn) := encNNN_and_cat _ _
theorem InRow.rnd (x : Reg) (nn : Byte) : InRow.Statement (.rnd x nn) := encXNN_and_cat _ _ _
theorem InRow.drw (x y : Reg) (n : Nibble) : InRow.Statement (.drw x y n) := encXYN_and_cat _ _ _ _
theorem InRow.skp (x : Reg) : InRow.Statement (.skp x) := encXNN_and_sub _ _ _
theorem InRow.sknp (x : Reg) : InRow.Statement (.sknp x) := encXNN_and_sub _ _ _
theorem InRow.ldVxDt (x : Reg) : InRow.Statement (.ldVxDt x) := encXNN_and_sub _ _ _
theorem InRow.ldVxK (x : Reg) : InRow.Statement (.ldVxK x) := encXNN_and_sub _ _ _
theorem InRow.ldDtVx (x : Reg) : InRow.Statement (.ldDtVx x) := encXNN_and_sub _ _ _
theorem InRow.ldStVx (x : Reg) : InRow.Statement (.ldStVx x) := encXNN_and_sub _ _ _
theorem InRow.addI (x : Reg) : InRow.Statement (.addI x) := encXNN_and_sub _ _ _
theorem InRow.ldF (x : Reg) : InRow.Statement (.ldF x) := encXNN_and_sub _ _ _
theorem InRow.ldB (x : Reg) : InRow.Statement (.ldB x) := encXNN_and_sub _ _ _
theorem InRow.stRegs (x : Reg) : InRow.Statement (.stRegs x) := encXNN_and_sub _ _ _
theorem InRow.ldRegs (x : Reg) : InRow.Statement (.ldRegs x) := encXNN_and_sub _ _ _

end Sys2Proof.Laws
end

