-- ==== Sys2Proof/Tests/Slice0.lean ====
section
/-! SUPPORT. Tests/Slice0.lean: the model's own tests. Words written out from the opcode map (30_encoding.md R96),
ill-formed terms, single steps whose expected results are the vectors of 95_test_vectors.md (named S or T in each
comment), and for each obligation with hypotheses a state that meets them. -/

namespace Sys2Proof.Tests

open Sys2Proof.Machine

/-! Words, digit by digit from the opcode map. -/

theorem test_word_cls : decode 0x00E0#16 = .instr (.cls) ∧ encode (.cls) = 0x00E0#16 := by decide
theorem test_word_ret : decode 0x00EE#16 = .instr (.ret) ∧ encode (.ret) = 0x00EE#16 := by decide
theorem test_word_jp : decode 0x1ABC#16 = .instr (.jp 0xABC#12) ∧ encode (.jp 0xABC#12) = 0x1ABC#16 := by decide
theorem test_word_call : decode 0x2F01#16 = .instr (.call 0xF01#12) ∧ encode (.call 0xF01#12) = 0x2F01#16 := by decide
theorem test_word_seImm : decode 0x3A5C#16 = .instr (.seImm 10 0x5C#8) ∧ encode (.seImm 10 0x5C#8) = 0x3A5C#16 := by decide
theorem test_word_sneImm : decode 0x41FE#16 = .instr (.sneImm 1 0xFE#8) ∧ encode (.sneImm 1 0xFE#8) = 0x41FE#16 := by decide
theorem test_word_seReg : decode 0x5AB3#16 = .instr (.seReg 10 11 0x3#4) ∧ encode (.seReg 10 11 0x3#4) = 0x5AB3#16 := by decide
theorem test_word_ldImm : decode 0x6F80#16 = .instr (.ldImm 15 0x80#8) ∧ encode (.ldImm 15 0x80#8) = 0x6F80#16 := by decide
theorem test_word_addImm : decode 0x7201#16 = .instr (.addImm 2 0x01#8) ∧ encode (.addImm 2 0x01#8) = 0x7201#16 := by decide
theorem test_word_ldReg : decode 0x8120#16 = .instr (.ldReg 1 2) ∧ encode (.ldReg 1 2) = 0x8120#16 := by decide
theorem test_word_orReg : decode 0x8341#16 = .instr (.orReg 3 4) ∧ encode (.orReg 3 4) = 0x8341#16 := by decide
theorem test_word_andReg : decode 0x8562#16 = .instr (.andReg 5 6) ∧ encode (.andReg 5 6) = 0x8562#16 := by decide
theorem test_word_xorReg : decode 0x8783#16 = .instr (.xorReg 7 8) ∧ encode (.xorReg 7 8) = 0x8783#16 := by decide
theorem test_word_addReg : decode 0x89A4#16 = .instr (.addReg 9 10) ∧ encode (.addReg 9 10) = 0x89A4#16 := by decide
theorem test_word_subReg : decode 0x8BC5#16 = .instr (.subReg 11 12) ∧ encode (.subReg 11 12) = 0x8BC5#16 := by decide
theorem test_word_shr : decode 0x8DE6#16 = .instr (.shr 13 14) ∧ encode (.shr 13 14) = 0x8DE6#16 := by decide
theorem test_word_subnReg : decode 0x8F07#16 = .instr (.subnReg 15 0) ∧ encode (.subnReg 15 0) = 0x8F07#16 := by decide
theorem test_word_shl : decode 0x812E#16 = .instr (.shl 1 2) ∧ encode (.shl 1 2) = 0x812E#16 := by decide
theorem test_word_sneReg : decode 0x9AB7#16 = .instr (.sneReg 10 11 0x7#4) ∧ encode (.sneReg 10 11 0x7#4) = 0x9AB7#16 := by decide
theorem test_word_ldI : decode 0xA123#16 = .instr (.ldI 0x123#12) ∧ encode (.ldI 0x123#12) = 0xA123#16 := by decide
theorem test_word_jpV0 : decode 0xB456#16 = .instr (.jpV0 0x456#12) ∧ encode (.jpV0 0x456#12) = 0xB456#16 := by decide
theorem test_word_rnd : decode 0xC7F0#16 = .instr (.rnd 7 0xF0#8) ∧ encode (.rnd 7 0xF0#8) = 0xC7F0#16 := by decide
theorem test_word_drw : decode 0xD89A#16 = .instr (.drw 8 9 0xA#4) ∧ encode (.drw 8 9 0xA#4) = 0xD89A#16 := by decide
theorem test_word_skp : decode 0xEB9E#16 = .instr (.skp 11) ∧ encode (.skp 11) = 0xEB9E#16 := by decide
theorem test_word_sknp : decode 0xECA1#16 = .instr (.sknp 12) ∧ encode (.sknp 12) = 0xECA1#16 := by decide
theorem test_word_ldVxDt : decode 0xFD07#16 = .instr (.ldVxDt 13) ∧ encode (.ldVxDt 13) = 0xFD07#16 := by decide
theorem test_word_ldVxK : decode 0xFE0A#16 = .instr (.ldVxK 14) ∧ encode (.ldVxK 14) = 0xFE0A#16 := by decide
theorem test_word_ldDtVx : decode 0xF015#16 = .instr (.ldDtVx 0) ∧ encode (.ldDtVx 0) = 0xF015#16 := by decide
theorem test_word_ldStVx : decode 0xF118#16 = .instr (.ldStVx 1) ∧ encode (.ldStVx 1) = 0xF118#16 := by decide
theorem test_word_addI : decode 0xF21E#16 = .instr (.addI 2) ∧ encode (.addI 2) = 0xF21E#16 := by decide
theorem test_word_ldF : decode 0xF329#16 = .instr (.ldF 3) ∧ encode (.ldF 3) = 0xF329#16 := by decide
theorem test_word_ldB : decode 0xF433#16 = .instr (.ldB 4) ∧ encode (.ldB 4) = 0xF433#16 := by decide
theorem test_word_stRegs : decode 0xF555#16 = .instr (.stRegs 5) ∧ encode (.stRegs 5) = 0xF555#16 := by decide
theorem test_word_ldRegs : decode 0xF665#16 = .instr (.ldRegs 6) ∧ encode (.ldRegs 6) = 0xF665#16 := by decide

/-! The four unrecognized groups at their edges (R97; T10). -/

theorem test_unrecognized_0 : [0x0000#16, 0x0123#16, 0x00E1#16, 0x00ED#16, 0x0FFF#16].map decode =
    List.replicate 5 (.unrecognized .category0) := by decide
theorem test_unrecognized_8 : [0x8008#16, 0x8FFD#16, 0x800F#16].map decode =
    List.replicate 3 (.unrecognized .category8) := by decide
theorem test_unrecognized_e : [0xE100#16, 0xE09F#16, 0xEFA0#16].map decode =
    List.replicate 3 (.unrecognized .categoryE) := by decide
theorem test_unrecognized_f : [0xF1FF#16, 0xF000#16, 0xF064#16, 0xFF56#16].map decode =
    List.replicate 4 (.unrecognized .categoryF) := by decide

/-- Bytes lie high byte first (R64). -/
theorem test_bytes_big_endian : decodeBytes 0x62#8 0xEA#8 = .instr (.ldImm 2 0xEA#8) := by decide

/-! WellFormed: an ill-formed term for each check, refused; its canonical spelling is accepted. -/

theorem test_illFormed_seReg : (Instr.seReg 1 2 0x7#4).wellFormed = false ∧ (Instr.seReg 1 2 0x0#4).wellFormed = true := by
  decide
theorem test_illFormed_sneReg : (Instr.sneReg 1 2 0x1#4).wellFormed = false ∧ (Instr.sneReg 1 2 0x0#4).wellFormed = true := by
  decide
theorem test_illFormed_shr : (Instr.shr 1 2).wellFormed = false ∧ (Instr.shr 1 0).wellFormed = true := by decide
theorem test_illFormed_shl : (Instr.shl 1 2).wellFormed = false ∧ (Instr.shl 1 0).wellFormed = true := by decide

/-! Small states. -/

/-- `s` with registers set. -/
def withRegs (l : List (Reg × Byte)) (s : State) : State := l.foldl (fun s p => s.writeReg p.1 p.2) s

/-- `s` with bytes stored. -/
def withBytes (a : Nat) (bs : List Byte) (s : State) : State := { s with mem := s.mem.writeBytes a bs }

/-- One step of `s` answers a next state with the property. -/
def stepsTo (s : State) (p : State → Bool) : Bool :=
  match step s with
  | .next t => p t
  | .fault _ => false
  | .refused _ => false

/-- One step on a word placed at `PC`. -/
def onWord (w : Nat) (s : State) (p : State → Bool) : Bool := stepsTo (s.withFetchWord 16 w) p

/-- `V0 = a`, `V1 = b`, `VF = f`. -/
def alu (a b f : Byte) : State := withRegs [(0, a), (1, b), (15, f)] State.reset

/-- `V0` and VF are as given and `PC` has advanced. -/
def aluGives (a f : Byte) (t : State) : Bool := t.v[0] == a && t.v[15] == f && t.pc == 0x202

/-! Steps. -/

/-- T1 and T2: the advance wraps from 0xFFE, and does not from 0xFFD. -/
theorem test_advance : onWord 0x6A05 { State.reset with pc := 0xFFE } (fun t => t.v[10] == 5 && t.pc == 0x200) &&
    onWord 0x6A05 { State.reset with pc := 0xFFD } (fun t => t.v[10] == 5 && t.pc == 0xFFF) = true := by decide
/-- T3 and T5. -/
theorem test_fetch_fault : stepsTo { State.reset with pc := 0xFFF } (fun t => t.fault == ⟨.fetchBounds, 0xFFF, 0x1000⟩ &&
      t.pc == 0xFFF && t.trace == [.diagFault .fetchBounds 0xFFF 0x1000]) &&
    stepsTo { State.reset with pc := 0x10FE } (fun t => t.fault == ⟨.fetchBounds, 0x10FE, 0x10FE⟩) = true := by decide
/-- T9. -/
theorem test_unrecognized : stepsTo State.reset
    (fun t => t == { State.reset with pc := 0x202, trace := [.diagUnrecognized 0x0000 0x200] }) = true := by decide
/-- T130. -/
theorem test_cls : onWord 0x00E0 (withRegs [(15, 1)] { State.reset with fb := State.reset.fb.set 3 (Vector.replicate 64 true) })
    (fun t => t.fb == State.reset.fb && t.trace == [.clear] && t.v[15] == 1 && t.pc == 0x202) = true := by decide
/-- T28 and T31. -/
theorem test_ret : onWord 0x00EE State.reset
      (fun t => t.fault == ⟨.stackUnderflow, 0x200, 0x00EE⟩ && t.sp == .slot 15 && t.pc == 0x200) &&
    onWord 0x00EE { State.reset with sp := .full, stack := State.reset.stack.set 0 0x456 }
      (fun t => t.sp == .slot 0 && t.pc == 0x456 && t.stack[0] == 0x456) = true := by decide
/-- T29 and T30. -/
theorem test_call : onWord 0x2ABC { State.reset with sp := .full }
      (fun t => t.fault == ⟨.stackOverflow, 0x200, 0x2ABC⟩ && t.sp == .full && t.pc == 0x200) &&
    onWord 0x2ABC { State.reset with sp := .slot 0 }
      (fun t => t.stack[0] == 0x202 && t.sp == .full && t.pc == 0xABC) = true := by decide
/-- T27: the return address wraps. -/
theorem test_call_wraps : onWord 0x2300 { State.reset with pc := 0xFFE }
    (fun t => t.stack[15] == 0x200 && t.sp == .slot 14 && t.pc == 0x300) = true := by decide
/-- T36, T32, T34: the two jumps. -/
theorem test_jp : onWord 0x1FFF State.reset (fun t => t.pc == 0xFFF) = true := by decide
theorem test_jpV0 : onWord 0xBFFF (withRegs [(0, 0xFF)] State.reset) (fun t => t.pc == 0x10FE) &&
    onWord 0xB300 (withRegs [(0, 4), (3, 0x40)] State.reset) (fun t => t.pc == 0x304) = true := by decide
/-- T22, T23, T24. -/
theorem test_seImm : onWord 0x3000 { State.reset with pc := 0xFFE } (fun t => t.pc == 0x202) &&
    onWord 0x3000 { State.reset with pc := 0xFFD } (fun t => t.pc == 0x1001) &&
    onWord 0x3001 State.reset (fun t => t.pc == 0x202) = true := by decide
/-- T25. -/
theorem test_sneImm : onWord 0x4007 (withRegs [(0, 7)] State.reset) (fun t => t.pc == 0x202) &&
    onWord 0x4008 (withRegs [(0, 7)] State.reset) (fun t => t.pc == 0x204) = true := by decide
/-- T11, T12: the low digit is ignored. -/
theorem test_seReg : onWord 0x5121 (withRegs [(1, 1), (2, 1)] State.reset)
    (fun t => t.pc == 0x204 && t.trace == []) = true := by decide
theorem test_sneReg : onWord 0x9AB7 (withRegs [(10, 10), (11, 11)] State.reset)
    (fun t => t.pc == 0x204 && t.trace == []) = true := by decide
/-- T90, T91, T92. -/
theorem test_ldImm : onWord 0x62EA State.reset (fun t => t.v[2] == 0xEA) = true := by decide
theorem test_addImm : onWord 0x7102 (withRegs [(1, 0xFF)] State.reset) (fun t => t.v[1] == 0x01 && t.v[15] == 0) &&
    onWord 0x7F02 (withRegs [(15, 0xFF)] State.reset) (fun t => t.v[15] == 0x01) = true := by decide
/-- T40 to T43. -/
theorem test_ldReg : onWord 0x8010 (alu 0x11 0x22 1) (aluGives 0x22 1) = true := by decide
theorem test_orReg : onWord 0x8011 (alu 0x0F 0xF0 1) (aluGives 0xFF 1) = true := by decide
theorem test_andReg : onWord 0x8012 (alu 0x3C 0x0F 1) (aluGives 0x0C 1) = true := by decide
theorem test_xorReg : onWord 0x8013 (alu 0xFF 0x0F 1) (aluGives 0xF0 1) = true := by decide
/-- T44, T45, T46; T70. -/
theorem test_addReg : onWord 0x8014 (alu 0xFA 0x0A 0) (aluGives 0x04 1) && onWord 0x8014 (alu 1 1 1) (aluGives 2 0) &&
    onWord 0x8014 (alu 0xFF 0x01 0) (aluGives 0 1) = true := by decide
theorem test_addReg_vf : onWord 0x8F14 (alu 0 0x64 0xC8) (fun t => t.v[15] == 1) &&
    onWord 0x80F4 (alu 0xFF 0 1) (aluGives 0 1) = true := by decide
/-- T49, T50, T51; T72, T82. -/
theorem test_subReg : onWord 0x8015 (alu 5 10 0) (aluGives 0xFB 0) && onWord 0x8015 (alu 10 5 0) (aluGives 5 1) &&
    onWord 0x8015 (alu 7 7 0) (aluGives 0 1) = true := by decide
theorem test_subReg_vf : onWord 0x8F15 (alu 0 0x0A 0x05) (fun t => t.v[15] == 0) &&
    onWord 0x80F5 (alu 0 0 1) (aluGives 0xFF 0) = true := by decide
/-- T58, T59; T74. -/
theorem test_shr : onWord 0x8016 (alu 5 0xAA 0) (aluGives 2 1) && onWord 0x8016 (alu 4 0xFF 1) (aluGives 2 0) = true := by
  decide
theorem test_shr_vf : onWord 0x8F16 (alu 0 0 3) (fun t => t.v[15] == 1) = true := by decide
/-- T54, T55, T56; T78. -/
theorem test_subnReg : onWord 0x8017 (alu 5 10 0) (aluGives 5 1) && onWord 0x8017 (alu 10 5 0) (aluGives 0xFB 0) &&
    onWord 0x8017 (alu 7 7 0) (aluGives 0 1) = true := by decide
theorem test_subnReg_vf : onWord 0x8F17 (alu 0 0x0A 0x05) (fun t => t.v[15] == 1) = true := by decide
/-- T63, T64; T76. -/
theorem test_shl : onWord 0x801E (alu 0x81 0xAA 0) (aluGives 2 1) && onWord 0x801E (alu 0x40 0xFF 1) (aluGives 0x80 0) =
    true := by decide
theorem test_shl_vf : onWord 0x8F1E (alu 0 0 0x80) (fun t => t.v[15] == 1) = true := by decide
/-- The draw is free: only `PC` and the draw counter are checked. -/
theorem test_rnd : onWord 0xC30F State.reset (fun t => t.pc == 0x202 && t.draws == 1) = true := by decide
/-- T101, T104, T106, T107. -/
theorem test_ldI : onWord 0xAFFF State.reset (fun t => t.i == 0xFFF) = true := by decide
theorem test_addI : onWord 0xF21E (withRegs [(2, 2)] { State.reset with i := 0xFFFF })
    (fun t => t.i == 0x0001 && t.v[15] == 0) = true := by decide
theorem test_ldF : onWord 0xF029 (withRegs [(0, 0x0F)] State.reset) (fun t => t.i == 0x4B) &&
    onWord 0xF029 (withRegs [(0, 0xFF)] State.reset) (fun t => t.i == 0x4FB) = true := by decide
/-- T108, T109; T110, T111. -/
theorem test_ldB : onWord 0xF233 (withRegs [(2, 234)] { State.reset with i := 4093 })
    (fun t => t.mem.readBytes 4093 3 == [2, 3, 4] && t.i == 4093 && t.pc == 0x202) = true := by decide
theorem test_ldB_fault : onWord 0xF233 (withRegs [(2, 255)] { State.reset with i := 4094 })
      (fun t => t.fault == ⟨.dataWriteBounds, 0x200, 4096⟩ && t.mem.readBytes 4094 2 == [0, 0]) &&
    onWord 0xF233 { State.reset with i := 0xFFFF } (fun t => t.fault == ⟨.dataWriteBounds, 0x200, 65535⟩) = true := by decide
/-- T117; T116 and T115. -/
theorem test_stRegs : onWord 0xF255 (withRegs [(0, 1), (1, 2), (2, 3), (3, 9)] { State.reset with i := 0x400 })
    (fun t => t.mem.readBytes 0x400 4 == [1, 2, 3, 0] && t.i == 0x400) = true := by decide
theorem test_stRegs_fault : onWord 0xF655 { State.reset with i := 4090 }
      (fun t => t.fault == ⟨.dataWriteBounds, 0x200, 4096⟩) &&
    onWord 0xF555 { State.reset with i := 4090 } (fun t => t.pc == 0x202) = true := by decide
/-- T120 with two registers; T121. -/
theorem test_ldRegs : onWord 0xF165 (withBytes 4094 [0x7E, 0xFF] { State.reset with i := 4094 })
    (fun t => t.v[0] == 0x7E && t.v[1] == 0xFF && t.v[2] == 0 && t.i == 4094) = true := by decide
theorem test_ldRegs_fault : onWord 0xF065 { State.reset with i := 4096 }
    (fun t => t.fault == ⟨.dataReadBounds, 0x200, 4096⟩) = true := by decide
/-- T136: the sprite wraps within its row, toggles in order. -/
theorem test_drw_wraps : onWord 0xD011 (withRegs [(0, 60)] (withBytes 0x300 [0xFF] { State.reset with i := 0x300 }))
    (fun t => t.trace == [.toggle 60 0, .toggle 61 0, .toggle 62 0, .toggle 63 0, .toggle 0 0, .toggle 1 0,
      .toggle 2 0, .toggle 3 0, .render] && t.v[15] == 0 && t.fb[0][63] && t.fb[0][3] && !t.fb[0][4]) = true := by decide
/-- T139: the collision flag. -/
theorem test_drw_collides : onWord 0xD001 (withBytes 0x300 [0xC0]
      { State.reset with i := 0x300, fb := State.reset.fb.toggle 1 0 })
    (fun t => t.fb[0][0] && !t.fb[0][1] && t.v[15] == 1) = true := by decide
/-- T150, T152, T153. -/
theorem test_skp : onWord 0xE39E (withRegs [(3, 7)] { State.reset with keys := 0x0080 }) (fun t => t.pc == 0x204) &&
    onWord 0xE39E (withRegs [(3, 0x17)] { State.reset with keys := 0x0080 }) (fun t => t.pc == 0x202) = true := by decide
theorem test_sknp : onWord 0xE3A1 (withRegs [(3, 7)] { State.reset with keys := 0x0080 }) (fun t => t.pc == 0x202) &&
    onWord 0xE3A1 (withRegs [(3, 0x10)] { State.reset with keys := 0xFFFF }) (fun t => t.pc == 0x204) = true := by decide
/-- T154, T155, T156, T157. -/
theorem test_ldVxDt : onWord 0xF407 { State.reset with dt := 1 } (fun t => t.v[4] == 1 && t.dt == 1) = true := by decide
theorem test_ldDtVx : onWord 0xF015 (withRegs [(0, 3)] State.reset) (fun t => t.dt == 3) = true := by decide
theorem test_ldStVx : onWord 0xF018 (withRegs [(0, 3)] State.reset)
    (fun t => t.st == 3 && t.tone && t.trace == [.startTone]) = true := by decide
theorem test_ldStVx_zero : onWord 0xF018 { State.reset with st := 5, tone := true }
    (fun t => t.st == 0 && t.tone && t.trace == []) = true := by decide
/-- S11. -/
theorem test_ldVxK : onWord 0xF30A State.reset
    (fun t => t.wait && t.waitReg == 3 && t.pc == 0x202 && stepsTo t (fun u => u == t) &&
      t.keyDown defaultParams 7 == { t with v := t.v.set 3 7, wait := false, keys := 0x0080 }) = true := by decide

/-! The other agents. -/

/-- T157 and T159: the tick that ends the tone; T162: no wrap. -/
theorem test_tick : ({ State.reset with tone := true } : State).tick = { State.reset with trace := [.stopTone] } ∧
    ({ State.reset with dt := 1, st := 1, tone := true } : State).tick = { State.reset with trace := [.stopTone] } ∧
    State.reset.tick = State.reset := by decide
/-- T164, T165, T167, T168. -/
theorem test_keys : (State.reset.keyDown defaultParams 2).keys = 0x0004 ∧
    (({ State.reset with keys := 0x0204 } : State).keyUp defaultParams 2).keys = 0x0200 ∧
    ({ State.reset with wait := true } : State).keyDown defaultParams 16 = { State.reset with wait := true } := by decide
/-- T180. -/
theorem test_reset : (withRegs [(2, 9)] (withBytes 0x10 [0xAA]
      { State.reset with st := 5, tone := true, sp := .slot 3, fault := ⟨.stackOverflow, 0x200, 0x2200⟩ })).resetOp defaultParams =
    { State.reset with tone := true, trace := [.clear] } := by decide
/-- T182. -/
theorem test_loadRom : (State.reset.loadRom defaultParams [0xAB]).mem.readBytes 0x1FF 3 = [0, 0xAB, 0] := by decide

/-! Witnesses: for each obligation with hypotheses, a state and operands that meet them, at the edges of each
clause. -/

/-- A state that has taken a fault. -/
def halted : State := { State.reset with fault := ⟨.stackOverflow, 0x200, 0x2200⟩ }

/-- A state that waits for a key. -/
def waiting : State := { State.reset with wait := true, waitReg := 3 }

theorem witness_EncodeOfDecode : decode 0x5127#16 = .instr (.seReg 1 2 0x7#4) := by decide
theorem witness_RowsSelectWords :
    decode 0x8FF7#16 = .instr (.subnReg 15 15) ∧ decode 0x8FF8#16 = .unrecognized .category8 := by decide
theorem witness_LowDigitIgnored : (0x5AB3#16).toNat / 4096 = 5 ∧ (0x9ABF#16).toNat / 4096 = 9 := by decide

/-- The boundary is the last address a word can be fetched from. -/
theorem witness_StepRunsDecodedInstruction : ∃ (s : State) (i : Instr), s.Running ∧ s.pc.toNat ≤ 4094 ∧
    decodeBytes (s.mem.read s.pc.toNat) (s.mem.read (s.pc.toNat + 1)) = .instr i :=
  ⟨withBytes 4094 [0x00, 0xE0] { State.reset with pc := 4094 }, .cls, by decide⟩
theorem witness_UnrecognizedWordIsNoOperation : ∃ (s : State) (g : Unrecognized), s.Running ∧ s.pc.toNat ≤ 4094 ∧
    decodeBytes (s.mem.read s.pc.toNat) (s.mem.read (s.pc.toNat + 1)) = .unrecognized g :=
  ⟨State.reset, .category0, by decide⟩
theorem witness_BlockedStepChangesNothing :
    (halted.fault.cause ≠ .noFault ∨ halted.wait = true) ∧ (waiting.fault.cause ≠ .noFault ∨ waiting.wait = true) := by
  decide
theorem witness_FetchReadsOrFaults : (∃ s : State, s.pc.toNat = 4094) ∧ (∃ s : State, s.pc.toNat = 4095 ∧ s.Running) ∧
    ∃ s : State, s.pc.toNat = 0x10FE ∧ s.Running :=
  ⟨⟨{ State.reset with pc := 4094 }, by decide⟩, ⟨{ State.reset with pc := 4095 }, by decide⟩,
    ⟨{ State.reset with pc := 0x10FE }, by decide⟩⟩
/-- A fetch fault and an instruction's fault. -/
theorem witness_FaultsArePrecise :
    (∃ s t : State, s.Safe ∧ 4095 ≤ s.pc.toNat ∧ step s = .next t ∧ ¬ t.Safe) ∧
      ∃ s t : State, s.Safe ∧ s.pc.toNat ≤ 4094 ∧ step s = .next t ∧ ¬ t.Safe :=
  ⟨⟨{ State.reset with pc := 4095 }, _, by decide, by decide, rfl, by decide⟩,
    ⟨State.reset.withFetchWord 16 0x00EE, _, by decide, by decide, rfl, by decide⟩⟩
theorem witness_OtherInstructionsNeverFault : Instr.cls.mayRaise = none ∧ (Instr.addI 3).mayRaise = none := by decide
theorem witness_HaltedUntilReset : halted.fault.cause ≠ .noFault ∧
    ∀ o ∈ [Op.step, .tick, .keyDown 7, .keyUp 7], o ≠ .reset ∧ ∀ rom, o ≠ .loadRom rom := by
  simp [halted]
theorem witness_ReturnPopsOrUnderflows :
    (StackPtr.full ≠ .slot 15 ∧ StackPtr.slot 14 ≠ .slot 15) ∧ State.reset.sp = .slot 15 := by decide
theorem witness_CallPushesOrOverflows :
    State.reset.sp = .slot 15 ∧ (∃ s : State, s.sp = .slot 0) ∧ ∃ s : State, s.sp = .full :=
  ⟨rfl, ⟨{ State.reset with sp := .slot 0 }, rfl⟩, ⟨{ State.reset with sp := .full }, rfl⟩⟩
theorem witness_CallThenReturn : ∃ s : State, s.sp = .slot 0 ∧ s.sp ≠ .full :=
  ⟨{ State.reset with sp := .slot 0 }, by decide⟩
theorem witness_SixteenCallsNest : State.reset.sp = .slot 15 ∧ (List.replicate 16 (0x300#12 : Addr12)).length = 16 := by
  decide
theorem witness_JumpGoesToAddress :
    ((0xFFF#12 : Addr12) = 0xFFF#12 ∧ State.reset.Running) ∧ (0x200#12 : Addr12).toNat = State.reset.pc.toNat := by decide
theorem witness_IndexedJumpAddsV0 : ∃ s : State, s.Running ∧ 4095 = s.v[0].toNat + (0xF00#12 : Addr12).toNat :=
  ⟨withRegs [(0, 0xFF)] State.reset, by decide⟩
/-- A destination that is VF, one that is not, and a register that is neither. -/
theorem witness_AddSetsCarry : (0 : Reg) ≠ 15 ∧ ∃ r : Reg, r ≠ 0 ∧ r ≠ 15 := ⟨by decide, 14, by decide⟩
theorem witness_SubtractSetsNotBorrow : (14 : Reg) ≠ 15 ∧ ∃ r : Reg, r ≠ 14 ∧ r ≠ 15 := ⟨by decide, 0, by decide⟩
theorem witness_ShiftsSetBitOut : (1 : Reg) ≠ 15 ∧ ∃ r : Reg, r ≠ 1 ∧ r ≠ 15 := ⟨by decide, 2, by decide⟩
theorem witness_ImmediateLoadAndAdd : ∃ r : Reg, r ≠ 15 := ⟨0, by decide⟩
theorem witness_CopyAndLogic : ∃ r : Reg, r ≠ 15 := ⟨14, by decide⟩
theorem witness_RandomByteIsMasked : ∃ r : Reg, r ≠ 3 := ⟨15, by decide⟩
theorem witness_DecimalDigitsStored : (4093#16).toNat ≤ 4093 ∧ 4093 < (4094#16).toNat ∧ 4093 < (0xFFFF#16).toNat := by decide
theorem witness_RegistersStored : (4080#16).toNat + (15 : Reg).val ≤ 4095 ∧ (4095#16).toNat + (0 : Reg).val ≤ 4095 ∧
    4095 < (4081#16).toNat + (15 : Reg).val ∧ 4095 < (4096#16).toNat + (0 : Reg).val := by decide
theorem witness_RegistersLoaded : (4080#16).toNat + (15 : Reg).val ≤ 4095 ∧ (4095#16).toNat + (0 : Reg).val ≤ 4095 ∧
    4095 < (4090#16).toNat + (6 : Reg).val ∧ 4095 < (4096#16).toNat + (0 : Reg).val := by decide
theorem witness_StoreThenLoadRestores : ∃ (s : State) (x : Reg), s.i.toNat + x.val = 4095 :=
  ⟨{ State.reset with i := 4080 }, 15, by decide⟩
/-- Program P6 of 95_test_vectors.md, at its store. -/
theorem witness_StoreSeenByNextFetch : ∃ (s : State) (x : Reg) (i : Instr), s.Running ∧ 1 ≤ x.val ∧ s.i = nextPc s.pc ∧
    s.i.toNat + x.val ≤ 4095 ∧ decodeBytes s.v[0] s.v[1] = .instr i :=
  ⟨withRegs [(0, 0x12), (1, 0x08)] { State.reset with pc := 0x206, i := 0x208 }, 1, .jp 0x208#12, by decide⟩
theorem witness_CanonicalMemoriesAreUnique : ∃ m m' : Memory, m.wf ∧ m'.wf ∧ (∀ a < 4096, m.read a = m'.read a) ∧ m ≠ [] :=
  ⟨[(0x10, 0xAA), (0x300, 7)], Memory.write (Memory.write [] 0x300 7) 0x10 0xAA, by decide, by decide,
    fun a _ => congrArg (Memory.read · a) (by decide), by decide⟩
theorem witness_DrawSprite : ((0x0#4).toNat = 0 ∨ (0x1000#16).toNat + (0x0#4).toNat ≤ 4096) ∧
    ((0x1#4).toNat = 0 ∨ (4095#16).toNat + (0x1#4).toNat ≤ 4096) ∧
    (0 < (0x2#4).toNat ∧ 4096 < (4095#16).toNat + (0x2#4).toNat) := by decide
theorem witness_DrawTwiceRestores : ∃ (s t : State), (0 : Reg) ≠ 15 ∧ (1 : Reg) ≠ 15 ∧
    s.i.toNat + (0x1#4).toNat ≤ 4096 ∧ exec (.drw 0 1 0x1#4) s = .next t ∧ t.v[15] = 0 ∧
    s.spriteBit 0 1 0x1#4 0 0 = true :=
  ⟨withBytes 4095 [0x80] { State.reset with i := 4095 }, _, by decide, by decide, by decide, rfl, by decide, by decide⟩
theorem witness_SoundTimerStartsTone : (withRegs [(0, 1)] State.reset).v[0] ≠ 0 ∧ State.reset.v[0] = 0 := by decide
theorem witness_KeyWaitResolvedByKeyDown : keyOf defaultParams 7 = some 7 ∧ keyOf defaultParams 15 = some 15 ∧
    State.reset.Safe := by decide
theorem witness_TickCountsDown : (∃ s : State, s.st.toNat = 1) ∧ (∃ s : State, s.st.toNat = 0 ∧ s.tone = true) ∧
    (∃ s : State, s.st.toNat = 2) ∧ ∃ s : State, s.st.toNat = 0 ∧ s.tone = false :=
  ⟨⟨{ State.reset with st := 1 }, rfl⟩, ⟨{ State.reset with tone := true }, rfl, rfl⟩, ⟨{ State.reset with st := 2 }, rfl⟩,
    ⟨State.reset, rfl, rfl⟩⟩
theorem witness_TicksSilenceTheTone : ∃ s : State, s.tone = true ∧ 2 < max s.st.toNat 1 ∧ max s.st.toNat 1 ≤ 3 :=
  ⟨{ State.reset with st := 3, tone := true }, by decide⟩
theorem witness_KeyDownPressesAndResolves : keyOf defaultParams 16 = none ∧ keyOf defaultParams 0 = some 0 ∧
    waiting.wait = true ∧ waiting.waitReg = 3 := by decide
theorem witness_KeyUpReleases : keyOf defaultParams 16 = none ∧ keyOf defaultParams 15 = some 15 := by decide
theorem witness_KeymapIsOnto : defaultParams.wf := by decide
/-- A program one byte too long, and an address just past the copied bytes. -/
theorem witness_RomLoadTruncates : 3231 < min (List.replicate 3233 (0xAB#8)).length 3232 ∧
    0x200 + min (List.replicate 3233 (0xAB#8)).length 3232 ≤ 0xEA0 := by rw [List.length_replicate]; decide
theorem witness_EmptyMemoryRunsNoOperations : State.reset.Running ∧ State.reset.pc.toNat = 0x200 ∧
    ∀ a, 0x200 ≤ a → a < 4096 → State.reset.mem.read a = 0 :=
  ⟨by decide, by decide, fun a h _ => dif_neg (by omega)⟩
/-- T35. -/
theorem witness_JumpToSelfStays : ∃ s : State, s.Running ∧ s.pc.toNat ≤ 4094 ∧
    decodeBytes (s.mem.read s.pc.toNat) (s.mem.read (s.pc.toNat + 1)) = .instr (.jp 0x200#12) ∧
    (0x200#12 : Addr12).toNat = s.pc.toNat ∧ ∀ o ∈ [Op.step, .tick, .keyDown 7, .keyUp 7], o ≠ .reset ∧ ∀ rom, o ≠ .loadRom rom :=
  ⟨State.reset.withFetchWord 16 0x1200, by decide, by decide, by decide, by decide, by simp⟩
theorem witness_RegisterWriters : (∃ t, exec (.addReg 0 1) State.reset = .next t) ∧ ¬ (Instr.addReg 0 1).writes 14 ∧
    ¬ (Instr.ldRegs 3).writes 4 :=
  ⟨⟨_, rfl⟩, by simp [Instr.writes], by simp [Instr.writes]⟩
theorem witness_FlagIsZeroOrOne : (Instr.drw 0 1 0x1#4) ∈ [Instr.addReg 0 1, .subReg 0 1, .shr 0 1, .subnReg 0 1, .shl 0 1,
    .drw 0 1 0x1#4] ∧ (4095#16).toNat + (0x1#4).toNat ≤ 4096 := by decide
/-- An instruction that meets every clause's premises at once. -/
theorem witness_SpecialStateWriters : ∃ (i : Instr) (t : State), exec i State.reset = .next t ∧ (∀ nnn, i ≠ .call nnn) ∧
    i ≠ .ret ∧ (∀ nnn, i ≠ .ldI nnn) ∧ (∀ x, i ≠ .addI x ∧ i ≠ .ldF x) ∧ (∀ x, i ≠ .ldB x ∧ i ≠ .stRegs x) ∧
    (∀ x, i ≠ .ldDtVx x) ∧ (∀ x, i ≠ .ldStVx x) ∧ (∀ x, i ≠ .ldVxK x) ∧ i ≠ .cls ∧ ∀ x y n, i ≠ .drw x y n :=
  ⟨.ldImm 15 7, _, rfl, by simp⟩
/-- A state at the edge of the invariant: the largest `PC`, a full stack of the largest return addresses, a tone. -/
theorem witness_Inv : ({ State.reset with
      pc := 0x10FE, st := 1, tone := true, stack := Vector.replicate 16 0xFFF, sp := .full,
      mem := [(0, 0), (4095, 1)], wait := true } : State).Inv :=
  ⟨by decide, by decide, by decide, by decide, by decide⟩
/-- The premises of `StepKeepsInvariant` and `EveryOperationKeepsInvariant`, at a tone and about to run the
last word. -/
theorem witness_StepKeepsInvariant : ∃ s t : State, s.Inv ∧ s.Running ∧ step s = .next t :=
  ⟨withBytes 4094 [0xF0, 0x18] { State.reset with pc := 4094, st := 1, tone := true }, _,
    ⟨by decide, by decide, by decide, by decide, by decide⟩, by decide, rfl⟩
theorem witness_PlacedWordRuns : decodeTableWord 16 0xF265 = some (.ldRegs 2) ∧
    decodeTableWord 16 0x00E0 = some .cls := by decide

end Sys2Proof.Tests
end

section
/-! PROOF. The invariant (10_state.md R46): each named update keeps it, so each instruction, each step and each
operation of the agents outside the core answers a state that has it. -/

namespace Sys2Proof.Machine

/-! ## The named updates

An update that touches no field the invariant speaks of keeps it clause by clause. -/

theorem State.Inv.writeReg {s : State} (h : s.Inv) (x : Reg) (b : Byte) : (s.writeReg x b).Inv :=
  ⟨h.mem, h.pc, h.stack, h.wait, h.tone⟩

theorem State.Inv.writeWithFlag {s : State} (h : s.Inv) (x : Reg) (b f : Byte) : (s.writeWithFlag x b f).Inv :=
  (h.writeReg x b).writeReg vf f

theorem State.Inv.loadRegs {s : State} (h : s.Inv) (bs : List Byte) : (s.loadRegs bs).Inv :=
  ⟨h.mem, h.pc, h.stack, h.wait, h.tone⟩

theorem State.Inv.setI {s : State} (h : s.Inv) (w : Word) : (s.setI w).Inv :=
  ⟨h.mem, h.pc, h.stack, h.wait, h.tone⟩

theorem State.Inv.setDt {s : State} (h : s.Inv) (b : Byte) : (s.setDt b).Inv :=
  ⟨h.mem, h.pc, h.stack, h.wait, h.tone⟩

theorem State.Inv.draw8 {s : State} (h : s.Inv) : s.draw8.2.Inv :=
  ⟨h.mem, h.pc, h.stack, h.wait, h.tone⟩

theorem State.Inv.setMem {s : State} (h : s.Inv) {m : Memory} (hm : m.wf) : (s.setMem m).Inv :=
  ⟨hm, h.pc, h.stack, h.wait, h.tone⟩

theorem State.Inv.setPc {s : State} (h : s.Inv) {w : Word} (hw : w.toNat ≤ 0x10FE) : (s.setPc w).Inv :=
  ⟨h.mem, hw, h.stack, h.wait, h.tone⟩

/-- The advanced `PC` is below 4096 (R123). -/
theorem State.Inv.advance {s : State} (h : s.Inv) : s.advance.Inv :=
  h.setPc (by have := nextPc_lt s.pc; omega)

/-- A skip adds at most 2 to an advanced `PC` (R148), which R46 (d) allows. -/
theorem State.Inv.advance_skipIf {s : State} (h : s.Inv) (c : Bool) : (s.advance.skipIf c).Inv := by
  refine h.advance.setPc ?_
  have hlt := nextPc_lt s.pc
  rw [State.advance_pc, toNat_skip]
  split <;> omega

theorem State.Inv.setPc_addrOf {s : State} (h : s.Inv) (nnn : Addr12) : (s.setPc (addrOf nnn)).Inv :=
  h.setPc (by rw [toNat_addrOf]; omega)

/-- The largest indexed target is 0xFF + 0xFFF, the bound of R46 (d). -/
theorem State.Inv.setPc_indexedTarget {s : State} (h : s.Inv) (b : Byte) (nnn : Addr12) :
    (s.setPc (indexedTarget b nnn)).Inv :=
  h.setPc (by rw [toNat_indexedTarget]; omega)

/-- The return address a call pushes is the advanced `PC`, below 4096. -/
theorem State.Inv.advance_push {s : State} (h : s.Inv) (j : Fin 16) : (s.advance.push j).Inv := by
  refine ⟨h.mem, h.advance.pc, fun k => ?_, h.wait, h.tone⟩
  have hlt := nextPc_lt s.pc
  have hk := h.stack k
  simp only [State.push_stack, State.advance_stack, State.advance_pc, Fin.getElem_fin, Vector.getElem_set] at hk ⊢
  split <;> omega

/-- A return goes to a stored return address. -/
theorem State.Inv.pop {s : State} (h : s.Inv) (j : Fin 16) : (s.pop j).Inv :=
  ⟨h.mem, (h.stack j).trans (by decide), h.stack, h.wait, h.tone⟩

/-- An event that does not reach the tone keeps the invariant. -/
theorem State.Inv.emit {s : State} (h : s.Inv) {e : Event} (he : e.onTone s.tone = s.tone) : (s.emit e).Inv :=
  ⟨h.mem, h.pc, h.stack, h.wait, fun hst => he.trans (h.tone hst)⟩

theorem State.Inv.togglePixels {s : State} (h : s.Inv) (ps : List (Fin 64 × Fin 32)) : (s.togglePixels ps).1.Inv := by
  rw [togglePixels_rest]
  exact ⟨h.mem, h.pc, h.stack, h.wait, h.tone⟩

theorem State.Inv.setSt_zero {s : State} (h : s.Inv) : (s.setSt 0).Inv :=
  ⟨h.mem, h.pc, h.stack, h.wait, fun h0 => absurd rfl h0⟩

/-- `ST` may take any value once the tone has started (R46 g). -/
theorem State.Inv.setSt_startTone {s : State} (h : s.Inv) (b : Byte) : ((s.setSt b).emit .startTone).Inv :=
  ⟨h.mem, h.pc, h.stack, h.wait, fun _ => rfl⟩

/-- The latch is armed only where no fault is latched (R46 b). -/
theorem State.Inv.arm {s : State} (h : s.Inv) (hs : s.Safe) (x : Reg) : (s.arm x).Inv :=
  ⟨h.mem, h.pc, h.stack, fun _ => hs, h.tone⟩

/-- A fault is latched only where no key is awaited (R46 b). -/
theorem State.Inv.raise {s : State} (h : s.Inv) (hw : s.wait = false) (c : Cause) (info : Nat) :
    (s.raise c info).Inv :=
  ⟨h.mem, h.pc, h.stack, fun hw' => absurd (hw.symm.trans hw') (by decide), h.tone⟩

theorem State.Inv.unrecognized {s : State} (h : s.Inv) (op : Word) : (s.unrecognized op).Inv :=
  h.advance.emit rfl

/-! ## The six instructions that can fault -/

theorem execRet_keeps_inv {s : State} (h : s.Inv) (hr : s.Running) : ∃ t, exec .ret s = .next t ∧ t.Inv := by
  cases hp : s.sp.popSlot with
  | none => exact ⟨_, execRet_empty (popSlot_eq_none.1 hp), h.raise hr.2 _ _⟩
  | some j => exact ⟨_, execRet_pop hp, h.advance.pop j⟩

theorem execCall_keeps_inv {s : State} (h : s.Inv) (hr : s.Running) (nnn : Addr12) :
    ∃ t, exec (.call nnn) s = .next t ∧ t.Inv := by
  cases hp : s.sp with
  | full => exact ⟨_, execCall_full nnn hp, h.raise hr.2 _ _⟩
  | slot j => exact ⟨_, execCall_push nnn hp, (h.advance_push j).setPc_addrOf nnn⟩

theorem execDrw_keeps_inv {s : State} (h : s.Inv) (hr : s.Running) (x y : Reg) (n : Nibble) :
    ∃ t, exec (.drw x y n) s = .next t ∧ t.Inv := by
  by_cases hb : n.toNat = 0 ∨ s.i.toNat + n.toNat ≤ 4096
  · exact ⟨_, execDrw_draw x y n hb, ((h.advance.togglePixels _).writeReg _ _).emit rfl⟩
  · exact ⟨_, execDrw_fault x y n (by omega) (by omega), h.raise hr.2 _ _⟩

theorem execLdB_keeps_inv {s : State} (h : s.Inv) (hr : s.Running) (x : Reg) :
    ∃ t, exec (.ldB x) s = .next t ∧ t.Inv := by
  by_cases hb : s.i.toNat ≤ 4093
  · have hlen := length_bcdDigits s.v[x]
    exact ⟨_, execLdB_store x hb, h.advance.setMem (Memory.wf_writeBytes h.mem _ (by omega))⟩
  · exact ⟨_, execLdB_fault x (by omega), h.raise hr.2 _ _⟩

theorem execStRegs_keeps_inv {s : State} (h : s.Inv) (hr : s.Running) (x : Reg) :
    ∃ t, exec (.stRegs x) s = .next t ∧ t.Inv := by
  by_cases hb : s.i.toNat + x.val ≤ 4095
  · have hlen := length_regsUpTo s x
    exact ⟨_, execStRegs_store x hb, h.advance.setMem (Memory.wf_writeBytes h.mem _ (by omega))⟩
  · exact ⟨_, execStRegs_fault x (by omega), h.raise hr.2 _ _⟩

theorem execLdRegs_keeps_inv {s : State} (h : s.Inv) (hr : s.Running) (x : Reg) :
    ∃ t, exec (.ldRegs x) s = .next t ∧ t.Inv := by
  by_cases hb : s.i.toNat + x.val ≤ 4095
  · exact ⟨_, execLdRegs_load x hb, h.advance.loadRegs _⟩
  · exact ⟨_, execLdRegs_fault x (by omega), h.raise hr.2 _ _⟩

/-! ## Every instruction, every step -/

/-- Loading the sound timer starts the tone unless the value is 0 (R225). -/
theorem execLdStVx_keeps_inv {s : State} (h : s.Inv) (x : Reg) : ∃ t, exec (.ldStVx x) s = .next t ∧ t.Inv := by
  refine ⟨_, rfl, ?_⟩
  split
  · next h0 => rw [h0]; exact h.advance.setSt_zero
  · exact h.advance.setSt_startTone _

/-- Every instruction an unblocked step runs answers a state that keeps the invariant (R124). -/
theorem exec_keeps_inv {s : State} (h : s.Inv) (hr : s.Running) (i : Instr) : ∃ t, exec i s = .next t ∧ t.Inv := by
  cases i with
  | cls => exact ⟨_, rfl, h.advance.emit rfl⟩
  | ret => exact execRet_keeps_inv h hr
  | jp nnn => exact ⟨_, rfl, h.advance.setPc_addrOf nnn⟩
  | call nnn => exact execCall_keeps_inv h hr nnn
  | jpV0 nnn => exact ⟨_, rfl, h.advance.setPc_indexedTarget _ nnn⟩
  | seImm | sneImm | seReg | sneReg | skp | sknp => exact ⟨_, rfl, h.advance_skipIf _⟩
  | ldImm | addImm | ldReg | orReg | andReg | xorReg | ldVxDt => exact ⟨_, rfl, h.advance.writeReg _ _⟩
  | addReg | subReg | shr | subnReg | shl => exact ⟨_, rfl, h.advance.writeWithFlag _ _ _⟩
  | rnd => exact ⟨_, rfl, h.advance.draw8.writeReg _ _⟩
  | ldI | addI | ldF => exact ⟨_, rfl, h.advance.setI _⟩
  | drw x y n => exact execDrw_keeps_inv h hr x y n
  | ldVxK x => exact ⟨_, rfl, h.advance.arm hr.1 x⟩
  | ldDtVx => exact ⟨_, rfl, h.advance.setDt _⟩
  | ldStVx x => exact execLdStVx_keeps_inv h x
  | ldB x => exact execLdB_keeps_inv h hr x
  | stRegs x => exact execStRegs_keeps_inv h hr x
  | ldRegs x => exact execLdRegs_keeps_inv h hr x

/-- Every step answers a state that keeps the invariant (R120): blocked, a fetch fault, an instruction, or an
unrecognized word. -/
theorem step_keeps_inv {s : State} (h : s.Inv) : ∃ t, step s = .next t ∧ t.Inv := by
  by_cases hr : s.Running
  · by_cases hp : s.pc.toNat ≤ 4094
    · rw [step_word hr hp]
      cases decode s.wordAtPc with
      | instr i => exact exec_keeps_inv h hr i
      | unrecognized g => exact ⟨_, rfl, h.unrecognized _⟩
    · exact ⟨_, step_outside hr (by omega), h.raise hr.2 _ _⟩
  · exact ⟨s, step_blocked hr, h⟩

/-! ## The operations of the other agents -/

/-- A tick that silences the tone leaves `ST` at 0; every other one leaves the tone alone (R252). -/
theorem State.Inv.tick {s : State} (h : s.Inv) : s.tick.Inv := by
  rcases tick_cases s with hstop | hcount
  · rw [tick_stops hstop]
    exact ⟨h.mem, h.pc, h.stack, h.wait, fun h0 => absurd rfl h0⟩
  · rw [tick_counts hcount]
    refine ⟨h.mem, h.pc, h.stack, h.wait, fun hne => h.tone fun h0 => hne ?_⟩
    simp [h0, countDown]

theorem State.Inv.setKeys {s : State} (h : s.Inv) (ks : BitVec 16) : ({ s with keys := ks } : State).Inv :=
  ⟨h.mem, h.pc, h.stack, h.wait, h.tone⟩

theorem State.Inv.resolveWait {s : State} (h : s.Inv) (k : Key) : (s.resolveWait k).Inv := by
  cases hw : s.wait with
  | false => rwa [resolveWait_idle hw]
  | true =>
    rw [resolveWait_armed hw]
    exact ⟨h.mem, h.pc, h.stack, nofun, h.tone⟩

theorem State.Inv.keyDown {s : State} (h : s.Inv) (P : Config.Params) (p : Nat) : (s.keyDown P p).Inv := by
  cases hk : keyOf P p with
  | none => rwa [keyDown_unmapped hk]
  | some k => rw [keyDown_mapped hk]; exact (h.setKeys _).resolveWait k

theorem State.Inv.keyUp {s : State} (h : s.Inv) (P : Config.Params) (p : Nat) : (s.keyUp P p).Inv := by
  cases hk : keyOf P p with
  | none => rwa [keyUp_unmapped hk]
  | some k => rw [keyUp_mapped hk]; exact h.setKeys _

/-- A reset establishes the invariant from any state, since `ST` is 0 whatever `TONE` keeps (R280). -/
theorem inv_resetOp (P : Config.Params) (s : State) : (s.resetOp P).Inv := by
  have hpc : State.reset.pc.toNat ≤ 0x10FE := by decide
  have hstack : ∀ j : Fin 16, State.reset.stack[j].toNat ≤ 0xFFF := by decide
  rw [resetOp_eq]
  exact ⟨Memory.wf_afterReset P, hpc, hstack, nofun, fun h0 => absurd rfl h0⟩

/-- The copied bytes end below 4096 (R282). -/
theorem inv_loadRom (P : Config.Params) (rom : List Byte) (s : State) : (s.loadRom P rom).Inv := by
  have hr := inv_resetOp P s
  refine hr.setMem (Memory.wf_writeBytes hr.mem _ ?_)
  simp only [Config.progStart, Config.progCap, List.length_take]
  omega

/-- Settles O59, one case for each label of R9. -/
theorem everyOperationKeepsInvariant : Obligations.EveryOperationKeepsInvariant := by
  intro P o s h
  cases o with
  | step => exact step_keeps_inv h
  | tick => exact ⟨_, rfl, h.tick⟩
  | keyDown p => exact ⟨_, rfl, h.keyDown P p⟩
  | keyUp p => exact ⟨_, rfl, h.keyUp P p⟩
  | reset => exact ⟨_, rfl, inv_resetOp P s⟩
  | loadRom rom => exact ⟨_, rfl, inv_loadRom P rom s⟩

end Sys2Proof.Machine
end

section
/-! PROOF. The state (10_state.md): which fields and registers each instruction may write, the flag's two values,
the depth of the stack, and the power-on state. -/

namespace Sys2Proof.Machine

/-- What holds of the next state an operation is known to answer holds of the one it does answer. -/
theorem of_next {o : Host.Outcome State Fault Refusal} {p : State → Prop} (h : ∃ u, o = .next u ∧ p u) {t : State}
    (ht : o = .next t) : p t := by
  obtain ⟨u, hu, hp⟩ := h
  cases hu.symm.trans ht
  exact hp

/-! ## Invariants -/

/-- Settles O58: the state a step is known to answer, which keeps the invariant, is the one it answers. -/
theorem stepKeepsInvariant : Obligations.StepKeepsInvariant := fun _ _ h => of_next (step_keeps_inv h)

/-- Settles O57. -/
theorem invariantAtReset : Obligations.InvariantAtReset where
  mem := Memory.wf_nil
  pc := by decide
  stack := by decide
  wait := nofun
  tone := fun h0 => absurd rfl h0

/-- Settles O50: memory lists nothing, so every address reads as its initial byte. -/
theorem powerOnState : Obligations.PowerOnState := by
  refine ⟨by decide, rfl, rfl, by decide, rfl, rfl, rfl, rfl, rfl, rfl, fun a => ?_, fun a ha => ?_, rfl, ?_, rfl, rfl⟩
  · exact dif_pos a.isLt
  · exact dif_neg (by omega)
  · exact fun X Y => Grid.blank_get X Y X.isLt Y.isLt

/-! ## The frame of each named update -/

theorem Frame.mono {c d : List Field} {s t : State} (h : Frame c s t) (hcd : c ⊆ d) : Frame d s t :=
  fun f hf => h f fun hc => hf (hcd hc)

theorem Field.Same.trans {f : Field} {s t u : State} (h : f.Same s t) (h' : f.Same t u) : f.Same s u := by
  cases f with
  | mem => exact fun a => (h' a).trans (h a)
  | _ => exact Eq.trans h' h

/-- Updates in a row change no field but those that one of them changes. -/
theorem Frame.trans {c d : List Field} {s t u : State} (h : Frame c s t) (h' : Frame d t u) : Frame (c ++ d) s u :=
  fun f hf => (h f fun hc => hf (List.mem_append_left _ hc)).trans (h' f fun hd => hf (List.mem_append_right _ hd))

theorem frame_writeReg (s : State) (x : Reg) (b : Byte) : Frame [.v] s (s.writeReg x b) := fun f hf => by
  cases f <;> simp_all [Field.Same]

theorem frame_writeWithFlag (s : State) (x : Reg) (b f : Byte) : Frame [.v] s (s.writeWithFlag x b f) :=
  ((frame_writeReg s x b).trans (frame_writeReg _ vf f)).mono (by simp)

theorem frame_loadRegs (s : State) (bs : List Byte) : Frame [.v] s (s.loadRegs bs) := fun f hf => by
  cases f <;> simp_all [Field.Same]

theorem frame_setI (s : State) (w : Word) : Frame [.i] s (s.setI w) := fun f hf => by
  cases f <;> simp_all [Field.Same]

theorem frame_setDt (s : State) (b : Byte) : Frame [.dt] s (s.setDt b) := fun f hf => by
  cases f <;> simp_all [Field.Same]

theorem frame_setSt (s : State) (b : Byte) : Frame [.st] s (s.setSt b) := fun f hf => by
  cases f <;> simp_all [Field.Same]

theorem frame_setMem (s : State) (m : Memory) : Frame [.mem] s (s.setMem m) := fun f hf => by
  cases f <;> simp_all [Field.Same]

theorem frame_setPc (s : State) (w : Word) : Frame [.pc] s (s.setPc w) := fun f hf => by
  cases f <;> simp_all [Field.Same]

theorem frame_advance (s : State) : Frame [.pc] s s.advance := frame_setPc s (nextPc s.pc)

theorem frame_push (s : State) (j : Fin 16) : Frame [.stack, .sp] s (s.push j) := fun f hf => by
  cases f <;> simp_all [Field.Same]

theorem frame_pop (s : State) (j : Fin 16) : Frame [.sp, .pc] s (s.pop j) := fun f hf => by
  cases f <;> simp_all [Field.Same]

theorem frame_arm (s : State) (x : Reg) : Frame [.wait, .waitReg] s (s.arm x) := fun f hf => by
  cases f <;> simp_all [Field.Same]

theorem frame_draw8 (s : State) : Frame [.draws] s s.draw8.2 := fun f hf => by
  cases f <;> simp_all [Field.Same]

theorem frame_emit_clear (s : State) : Frame [.fb, .trace] s (s.emit .clear) := fun f hf => by
  cases f <;> simp_all [Field.Same]

theorem frame_emit_render (s : State) : Frame [.trace] s (s.emit .render) := fun f hf => by
  cases f <;> simp_all [Field.Same]

theorem frame_emit_startTone (s : State) : Frame [.tone, .trace] s (s.emit .startTone) := fun f hf => by
  cases f <;> simp_all [Field.Same]

theorem frame_togglePixels (s : State) (ps : List (Fin 64 × Fin 32)) :
    Frame [.fb, .trace] s (s.togglePixels ps).1 := fun f hf => by
  rw [togglePixels_rest]
  cases f <;> simp_all [Field.Same]

theorem frame_raise (s : State) (c : Cause) (info : Nat) : Frame [.fault, .trace] s (s.raise c info) :=
  (raise_entry s c info).2.2

/-! ## The fields an instruction may change -/

/-- The fields an instruction may change: `PC`, its destinations, the trace where it emits, and `FAULT` where it
may raise. -/
def touches : Instr → List Field
  | .cls => [.pc, .fb, .trace]
  | .ret => [.pc, .sp, .fault, .trace]
  | .call _ => [.pc, .stack, .sp, .fault, .trace]
  | .jp _ | .jpV0 _ | .seImm _ _ | .sneImm _ _ | .seReg _ _ _ | .sneReg _ _ _ | .skp _ | .sknp _ => [.pc]
  | .ldImm _ _ | .addImm _ _ | .ldReg _ _ | .orReg _ _ | .andReg _ _ | .xorReg _ _ | .addReg _ _ | .subReg _ _
  | .shr _ _ | .subnReg _ _ | .shl _ _ | .ldVxDt _ => [.pc, .v]
  | .rnd _ _ => [.pc, .draws, .v]
  | .ldI _ | .addI _ | .ldF _ => [.pc, .i]
  | .drw _ _ _ => [.pc, .v, .fb, .fault, .trace]
  | .ldVxK _ => [.pc, .wait, .waitReg]
  | .ldDtVx _ => [.pc, .dt]
  | .ldStVx _ => [.pc, .st, .tone, .trace]
  | .ldB _ | .stRegs _ => [.pc, .mem, .fault, .trace]
  | .ldRegs _ => [.pc, .v, .fault, .trace]

theorem execRet_frame (s : State) : ∃ t, exec .ret s = .next t ∧ Frame (touches .ret) s t := by
  cases hp : s.sp.popSlot with
  | none => exact ⟨_, execRet_empty (popSlot_eq_none.1 hp), (frame_raise _ _ _).mono (by simp [touches])⟩
  | some j => exact ⟨_, execRet_pop hp, ((frame_advance s).trans (frame_pop _ j)).mono (by simp [touches])⟩

theorem execCall_frame (nnn : Addr12) (s : State) :
    ∃ t, exec (.call nnn) s = .next t ∧ Frame (touches (.call nnn)) s t := by
  cases hp : s.sp with
  | full => exact ⟨_, execCall_full nnn hp, (frame_raise _ _ _).mono (by simp [touches])⟩
  | slot j =>
    exact ⟨_, execCall_push nnn hp,
      (((frame_advance s).trans (frame_push _ j)).trans (frame_setPc _ _)).mono (by simp [touches])⟩

theorem execDrw_frame (x y : Reg) (n : Nibble) (s : State) :
    ∃ t, exec (.drw x y n) s = .next t ∧ Frame (touches (.drw x y n)) s t := by
  by_cases hb : n.toNat = 0 ∨ s.i.toNat + n.toNat ≤ 4096
  · exact ⟨_, execDrw_draw x y n hb,
      ((((frame_advance s).trans (frame_togglePixels _ _)).trans (frame_writeReg _ _ _)).trans
        (frame_emit_render _)).mono (by simp [touches])⟩
  · exact ⟨_, execDrw_fault x y n (by omega) (by omega), (frame_raise _ _ _).mono (by simp [touches])⟩

theorem execLdB_frame (x : Reg) (s : State) : ∃ t, exec (.ldB x) s = .next t ∧ Frame (touches (.ldB x)) s t := by
  by_cases hb : s.i.toNat ≤ 4093
  · exact ⟨_, execLdB_store x hb, ((frame_advance s).trans (frame_setMem _ _)).mono (by simp [touches])⟩
  · exact ⟨_, execLdB_fault x (by omega), (frame_raise _ _ _).mono (by simp [touches])⟩

theorem execStRegs_frame (x : Reg) (s : State) :
    ∃ t, exec (.stRegs x) s = .next t ∧ Frame (touches (.stRegs x)) s t := by
  by_cases hb : s.i.toNat + x.val ≤ 4095
  · exact ⟨_, execStRegs_store x hb, ((frame_advance s).trans (frame_setMem _ _)).mono (by simp [touches])⟩
  · exact ⟨_, execStRegs_fault x (by omega), (frame_raise _ _ _).mono (by simp [touches])⟩

theorem execLdRegs_frame (x : Reg) (s : State) :
    ∃ t, exec (.ldRegs x) s = .next t ∧ Frame (touches (.ldRegs x)) s t := by
  by_cases hb : s.i.toNat + x.val ≤ 4095
  · exact ⟨_, execLdRegs_load x hb, ((frame_advance s).trans (frame_loadRegs _ _)).mono (by simp [touches])⟩
  · exact ⟨_, execLdRegs_fault x (by omega), (frame_raise _ _ _).mono (by simp [touches])⟩

/-- Only a value that is not 0 reaches the tone (R225). -/
theorem execLdStVx_frame (x : Reg) (s : State) :
    ∃ t, exec (.ldStVx x) s = .next t ∧ Frame (touches (.ldStVx x)) s t := by
  have hset : Frame [.pc, .st] s (s.advance.setSt s.v[x]) := (frame_advance s).trans (frame_setSt _ _)
  refine ⟨_, rfl, ?_⟩
  split
  · exact hset.mono (by simp [touches])
  · exact hset.trans (frame_emit_startTone _)

/-- Every instruction, in every state, answers a state that differs in the fields it may change alone. -/
theorem exec_frame (i : Instr) (s : State) : ∃ t, exec i s = .next t ∧ Frame (touches i) s t := by
  have ha := frame_advance s
  cases i with
  | cls => exact ⟨_, rfl, ha.trans (frame_emit_clear _)⟩
  | ret => exact execRet_frame s
  | call nnn => exact execCall_frame nnn s
  | jp | jpV0 | seImm | sneImm | seReg | sneReg | skp | sknp => exact ⟨_, rfl, frame_setPc s _⟩
  | ldImm | addImm | ldReg | orReg | andReg | xorReg | ldVxDt => exact ⟨_, rfl, ha.trans (frame_writeReg _ _ _)⟩
  | addReg | subReg | shr | subnReg | shl => exact ⟨_, rfl, ha.trans (frame_writeWithFlag _ _ _ _)⟩
  | rnd => exact ⟨_, rfl, (ha.trans (frame_draw8 _)).trans (frame_writeReg _ _ _)⟩
  | ldI | addI | ldF => exact ⟨_, rfl, ha.trans (frame_setI _ _)⟩
  | drw x y n => exact execDrw_frame x y n s
  | ldVxK x => exact ⟨_, rfl, ha.trans (frame_arm _ x)⟩
  | ldDtVx => exact ⟨_, rfl, ha.trans (frame_setDt _ _)⟩
  | ldStVx x => exact execLdStVx_frame x s
  | ldB x => exact execLdB_frame x s
  | stRegs x => exact execStRegs_frame x s
  | ldRegs x => exact execLdRegs_frame x s

/-- A field that an instruction may not change is the same in the state it answers. -/
theorem exec_same {i : Instr} {s t : State} (h : exec i s = .next t) {f : Field} (hf : f ∉ touches i) : f.Same s t :=
  of_next (exec_frame i s) h f hf

/-! ## Which instructions may change a field -/

theorem stack_mem_touches {i : Instr} : Field.stack ∈ touches i ↔ ∃ nnn, i = .call nnn := by
  cases i <;> simp [touches]

theorem sp_mem_touches {i : Instr} : Field.sp ∈ touches i ↔ (∃ nnn, i = .call nnn) ∨ i = .ret := by
  cases i <;> simp [touches]

theorem i_mem_touches {i : Instr} :
    Field.i ∈ touches i ↔ (∃ nnn, i = .ldI nnn) ∨ ∃ x, i = .addI x ∨ i = .ldF x := by
  cases i <;> simp [touches]

theorem mem_mem_touches {i : Instr} : Field.mem ∈ touches i ↔ ∃ x, i = .ldB x ∨ i = .stRegs x := by
  cases i <;> simp [touches]

theorem dt_mem_touches {i : Instr} : Field.dt ∈ touches i ↔ ∃ x, i = .ldDtVx x := by
  cases i <;> simp [touches]

theorem st_mem_touches {i : Instr} : Field.st ∈ touches i ↔ ∃ x, i = .ldStVx x := by
  cases i <;> simp [touches]

theorem tone_mem_touches {i : Instr} : Field.tone ∈ touches i ↔ ∃ x, i = .ldStVx x := by
  cases i <;> simp [touches]

theorem wait_mem_touches {i : Instr} : Field.wait ∈ touches i ↔ ∃ x, i = .ldVxK x := by
  cases i <;> simp [touches]

theorem waitReg_mem_touches {i : Instr} : Field.waitReg ∈ touches i ↔ ∃ x, i = .ldVxK x := by
  cases i <;> simp [touches]

theorem fb_mem_touches {i : Instr} : Field.fb ∈ touches i ↔ i = .cls ∨ ∃ x y n, i = .drw x y n := by
  cases i <;> simp [touches]

theorem keys_notMem_touches (i : Instr) : Field.keys ∉ touches i := by
  cases i <;> simp [touches]

/-- Settles O56: each clause is the frame of the instruction, at one field. -/
theorem specialStateWriters : Obligations.SpecialStateWriters := by
  intro i s t h
  refine ⟨fun hc => ?stack, fun hc hr => ?sp, fun hl ha => ?i, fun hm => ?mem, fun hd => ?dt, fun hs => ⟨?st, ?tone⟩,
    fun hk => ⟨?wait, ?waitReg⟩, fun hc hd => ?fb, ?keys⟩
  case stack => exact exec_same h (f := .stack) (by simpa [stack_mem_touches] using hc)
  case sp => exact exec_same h (f := .sp) (by simpa [sp_mem_touches] using ⟨hc, hr⟩)
  case i => exact exec_same h (f := .i) (by simpa [i_mem_touches] using ⟨hl, ha⟩)
  case mem => exact exec_same h (f := .mem) (by simpa [mem_mem_touches] using hm)
  case dt => exact exec_same h (f := .dt) (by simpa [dt_mem_touches] using hd)
  case st => exact exec_same h (f := .st) (by simpa [st_mem_touches] using hs)
  case tone => exact exec_same h (f := .tone) (by simpa [tone_mem_touches] using hs)
  case wait => exact exec_same h (f := .wait) (by simpa [wait_mem_touches] using hk)
  case waitReg => exact exec_same h (f := .waitReg) (by simpa [waitReg_mem_touches] using hk)
  case fb => exact exec_same h (f := .fb) (by simpa [fb_mem_touches] using ⟨hc, hd⟩)
  case keys => exact exec_same h (f := .keys) (keys_notMem_touches i)

/-! ## Registers and the flag -/

theorem writeReg_get_other (s : State) {x r : Reg} (b : Byte) (h : r ≠ x) : (s.writeReg x b).v[r] = s.v[r] := by
  rw [writeReg_get, if_neg h]

theorem writeWithFlag_get_other (s : State) {x r : Reg} (b f : Byte) (h : ¬ (r = x ∨ r = 15)) :
    (s.writeWithFlag x b f).v[r] = s.v[r] := by
  rw [writeWithFlag_get, if_neg fun h15 => h (.inr h15), if_neg fun hx => h (.inl hx)]

/-- Bytes loaded from `V0` upward leave the registers above them alone (R195). -/
theorem loadRegs_get_above (s : State) (bs : List Byte) {r : Reg} (h : bs.length ≤ r.val) :
    (s.loadRegs bs).v[r] = s.v[r] := by
  rw [State.loadRegs_v, Fin.getElem_fin, getElem_regsFrom bs s.v 0 r.val r.isLt, if_pos (Nat.zero_le _), Nat.sub_zero,
    List.getD_eq_default _ _ h]
  rfl

theorem togglePixels_v (s : State) (ps : List (Fin 64 × Fin 32)) : (s.togglePixels ps).1.v = s.v :=
  frame_togglePixels s ps .v (by simp)

theorem execDrw_keeps_regs (x y : Reg) (n : Nibble) (s : State) :
    ∃ t, exec (.drw x y n) s = .next t ∧ ∀ r : Reg, r ≠ 15 → t.v[r] = s.v[r] := by
  by_cases hb : n.toNat = 0 ∨ s.i.toNat + n.toNat ≤ 4096
  · refine ⟨_, execDrw_draw x y n hb, fun r hr => ?_⟩
    rw [State.emit_v, writeReg_get_other _ _ hr, togglePixels_v, State.advance_v]
  · exact ⟨_, execDrw_fault x y n (by omega) (by omega), fun _ _ => rfl⟩

theorem execLdRegs_keeps_regs (x : Reg) (s : State) :
    ∃ t, exec (.ldRegs x) s = .next t ∧ ∀ r : Reg, ¬ r ≤ x → t.v[r] = s.v[r] := by
  by_cases hb : s.i.toNat + x.val ≤ 4095
  · refine ⟨_, execLdRegs_load x hb, fun r hr => loadRegs_get_above s.advance _ ?_⟩
    rw [Memory.length_readBytes]
    exact not_le.1 hr
  · exact ⟨_, execLdRegs_fault x (by omega), fun _ _ => rfl⟩

/-- Settles O54: the instructions that write registers, by the way they write them; the others keep `V` whole. -/
theorem registerWriters : Obligations.RegisterWriters := by
  intro i s t r h hr
  cases i with
  | ldImm | addImm | ldReg | orReg | andReg | xorReg | ldVxDt =>
    exact of_next (p := fun u => u.v[r] = s.v[r]) ⟨_, rfl, writeReg_get_other s.advance _ hr⟩ h
  | rnd => exact of_next (p := fun u => u.v[r] = s.v[r]) ⟨_, rfl, writeReg_get_other s.advance.draw8.2 _ hr⟩ h
  | addReg | subReg | shr | subnReg | shl =>
    exact of_next (p := fun u => u.v[r] = s.v[r]) ⟨_, rfl, writeWithFlag_get_other s.advance _ _ hr⟩ h
  | drw x y n => exact of_next (execDrw_keeps_regs x y n s) h r hr
  | ldRegs x => exact of_next (execLdRegs_keeps_regs x s) h r hr
  | cls | ret | jp | call | seImm | sneImm | seReg | sneReg | ldI | jpV0 | skp | sknp | ldVxK | ldDtVx | ldStVx
  | addI | ldF | ldB | stRegs =>
    have hv : t.v = s.v := exec_same h (f := .v) (by simp [touches])
    rw [hv]

theorem writeWithFlag_vf_cases (s : State) (x : Reg) (b : Byte) (c : Bool) :
    (s.writeWithFlag x b (flagByte c)).v[15] = 0 ∨ (s.writeWithFlag x b (flagByte c)).v[15] = 1 := by
  rw [writeWithFlag_vf]
  exact flagByte_cases c

theorem execDrw_vf_cases (x y : Reg) {n : Nibble} {s : State} (hb : n.toNat = 0 ∨ s.i.toNat + n.toNat ≤ 4096) :
    ∃ t, exec (.drw x y n) s = .next t ∧ (t.v[15] = 0 ∨ t.v[15] = 1) := by
  have hvf : ∀ (u : State) (b : Byte), ((u.writeReg vf b).emit .render).v[15] = b := fun u b => by simp
  refine ⟨_, execDrw_draw x y n hb, ?_⟩
  rw [hvf]
  exact flagByte_cases _

/-- Settles O55: each of the six writes a flag byte to VF after the rest of its result (R171, R212). -/
theorem flagIsZeroOrOne : Obligations.FlagIsZeroOrOne := by
  intro x y n s i hi hb
  simp only [List.mem_cons, List.not_mem_nil, or_false] at hi
  obtain rfl | rfl | rfl | rfl | rfl | rfl := hi
  on_goal 6 => exact execDrw_vf_cases x y hb
  all_goals exact ⟨_, rfl, writeWithFlag_vf_cases s.advance x _ _⟩

/-! ## Nested calls (R27, R142) -/

theorem callAll_cons {nnn : Addr12} {s t : State} (h : exec (.call nnn) s = .next t) (rest : List Addr12) :
    callAll (nnn :: rest) s = callAll rest t := by
  simp only [callAll, h]

theorem toInt_eq_neg_one {p : StackPtr} : p.toInt = -1 ↔ p = .full := by
  cases p <;> simp [StackPtr.toInt]

/-- A stack with enough free slots takes the calls, `SP` down by one for each. -/
theorem callAll_descends (targets : List Addr12) {s : State} (h : (targets.length : Int) ≤ s.sp.toInt + 1) :
    ∃ t, callAll targets s = .next t ∧ t.sp.toInt = s.sp.toInt - targets.length ∧ t.fault = s.fault := by
  induction targets generalizing s with
  | nil => exact ⟨s, rfl, by simp, rfl⟩
  | cons nnn rest ih =>
    simp only [List.length_cons, Nat.cast_succ] at h ⊢
    cases hp : s.sp with
    | full =>
      rw [hp, StackPtr.toInt] at h
      omega
    | slot j =>
      have hsp : ((s.advance.push j).setPc (addrOf nnn)).sp.toInt = s.sp.toInt - 1 := by
        rw [hp]
        exact toInt_below j
      obtain ⟨t, hcalls, ht, hfault⟩ := ih (s := (s.advance.push j).setPc (addrOf nnn)) (by omega)
      refine ⟨t, (callAll_cons (execCall_push nnn hp) rest).trans hcalls, ?_, hfault⟩
      rw [← hp]
      omega

/-- Settles O19: from `SP` = 15 there is room for 16 calls; after 16, `SP` is -1 and a call overflows. -/
theorem sixteenCallsNest : Obligations.SixteenCallsNest := by
  intro targets s hs hlen
  have hsp : s.sp.toInt = 15 := by rw [hs]; rfl
  obtain ⟨t, hcalls, ht, hfault⟩ := callAll_descends targets (s := s) (by omega)
  refine ⟨t, hcalls, by omega, hfault, fun h16 nnn => ?_⟩
  exact ⟨_, execCall_full nnn (toInt_eq_neg_one.1 (by omega)), rfl⟩

end Sys2Proof.Machine
end

section
/-! PROOF. The bytes of a word in memory (20_memory.md R64, R73): encoding then decoding, and a store that the very
next fetch reads. -/

namespace Sys2Proof

/-! ## Decoding an encoded word -/

/-- The decoder takes an encoded word back to its instruction. The cases are the formats, each under its levels of
decoding (R94): the fields that select hold the row's constants, and the other fields are the instruction's (R96). -/
theorem decode_encode (i : Instr) : decode (encode i) = .instr i := by
  cases i with
  | cls | ret => rfl
  | jp | call | ldI | jpV0 => simp [encode, decode]
  | seImm | sneImm | ldImm | addImm | rnd => simp [encode, decode]
  | seReg | sneReg | drw => simp [encode, decode]
  | ldReg | orReg | andReg | xorReg | addReg | subReg | shr | subnReg | shl =>
    simp [encode, decode, decodeCategory8]
  | skp | sknp => simp [encode, decode, decodeCategoryE]
  | ldVxDt | ldVxK | ldDtVx | ldStVx | addI | ldF | ldB | stRegs | ldRegs =>
    simp [encode, decode, decodeCategoryF]

/-- Decoding the bytes of a word, high byte first, is decoding the word (R64). -/
@[simp] theorem decodeBytes_bytesOfWord (w : Word) : decodeBytes (bytesOfWord w).1 (bytesOfWord w).2 = decode w := by
  rw [decodeBytes, wordOfBytes_bytesOfWord]

end Sys2Proof

namespace Sys2Proof.Machine

/-- Settles O2: the two bytes spell the encoded word, and the decoder takes that word back to its instruction. -/
theorem decodeOfEncode : Obligations.DecodeOfEncode := fun i => by
  rw [decodeBytes_bytesOfWord, decode_encode]

/-! ## A store over the next instruction -/

/-- A running state whose two bytes at `PC` spell an instruction steps as that instruction (R120, R124). -/
theorem step_of_decodeBytes {s : State} (h : s.Running) (hp : s.pc.toNat ≤ 4094) {i : Instr}
    (hd : decodeBytes (s.mem.read s.pc.toNat) (s.mem.read (s.pc.toNat + 1)) = .instr i) : step s = exec i s := by
  have hword : decode s.wordAtPc = .instr i := hd
  rw [step_word h hp, hword]

/-- Where registers are stored from `a` upward, byte `k` of the store is register `k` (R194). -/
theorem read_writeBytes_regsUpTo (s : State) (a : Nat) {x k : Reg} (h : k ≤ x) :
    (s.mem.writeBytes a (s.regsUpTo x)).read (a + k.val) = s.v[k] := by
  have hk : k.val < (s.regsUpTo x).length := by
    rw [length_regsUpTo]
    exact Nat.lt_succ_of_le h
  rw [Memory.read_writeBytes, if_pos (Nat.le_add_right a k.val), Nat.add_sub_cancel_left,
    List.getD_eq_getElem _ _ hk, getElem_regsUpTo]

/-- Settles O35: the store leaves `PC` at its own base address, so the next fetch reads back V0 and V1. -/
theorem storeSeenByNextFetch : Obligations.StoreSeenByNextFetch := by
  intro x s i hrun hx hi hbound hd
  refine ⟨_, execStRegs_store x hbound, step_of_decodeBytes (s := s.advance.setMem _) hrun ?pc ?word⟩
  case pc =>
    rw [State.setMem_pc, State.advance_pc, ← hi]
    omega
  case word =>
    have h0 := read_writeBytes_regsUpTo s s.i.toNat (Fin.zero_le x)
    have h1 := read_writeBytes_regsUpTo s s.i.toNat (k := 1) hx
    rw [State.setMem_pc, State.setMem_mem, State.advance_pc, ← hi]
    exact (congrArg₂ decodeBytes h0 h1).trans hd

end Sys2Proof.Machine
end

section
/-! PROOF. The opcode map (30_encoding.md R94 to R97): which words decode to an instruction, which select a row, and
the low digit that categories 5 and 9 ignore. -/

namespace Sys2Proof

/-! ## The unrecognized words, level by level (R94, R97) -/

/-- Only the four categories with a second level (R94) hold unrecognized words. -/
theorem decode_eq_unrecognized {w : Word} {g : Unrecognized} :
    decode w = .unrecognized g ↔
      (w.toNat / 4096 = 0 ∧ decodeCategory0 w = .unrecognized g) ∨
      (w.toNat / 4096 = 8 ∧ decodeCategory8 w = .unrecognized g) ∨
      (w.toNat / 4096 = 0xE ∧ decodeCategoryE w = .unrecognized g) ∨
      (w.toNat / 4096 = 0xF ∧ decodeCategoryF w = .unrecognized g) := by
  have hcat : w.toNat / 4096 < 16 := by omega
  rw [decode, toNat_opCat]
  generalize w.toNat / 4096 = cat at hcat
  interval_cases cat <;> simp

theorem decodeCategory0_eq_unrecognized {w : Word} {g : Unrecognized} :
    decodeCategory0 w = .unrecognized g ↔
      w.toNat % 4096 ≠ 0x0E0 ∧ w.toNat % 4096 ≠ 0x0EE ∧ .category0 = g := by
  simp [decodeCategory0, ite_eq_iff, ← BitVec.toNat_inj, toNat_opNNN]

theorem decodeCategory8_eq_unrecognized {w : Word} {g : Unrecognized} :
    decodeCategory8 w = .unrecognized g ↔
      w.toNat % 16 ∈ [8, 9, 0xA, 0xB, 0xC, 0xD, 0xF] ∧ .category8 = g := by
  have hlow : w.toNat % 16 < 16 := Nat.mod_lt _ (by decide)
  rw [decodeCategory8, toNat_opN]
  generalize w.toNat % 16 = low at hlow
  interval_cases low <;> simp

theorem decodeCategoryE_eq_unrecognized {w : Word} {g : Unrecognized} :
    decodeCategoryE w = .unrecognized g ↔ w.toNat % 256 ∉ [0x9E, 0xA1] ∧ .categoryE = g := by
  simp [decodeCategoryE, ite_eq_iff, ← BitVec.toNat_inj, toNat_opNN, and_assoc]

theorem decodeCategoryF_eq_unrecognized {w : Word} {g : Unrecognized} :
    decodeCategoryF w = .unrecognized g ↔
      w.toNat % 256 ∉ [0x07, 0x0A, 0x15, 0x18, 0x1E, 0x29, 0x33, 0x55, 0x65] ∧ .categoryF = g := by
  simp [decodeCategoryF, ite_eq_iff, ← BitVec.toNat_inj, toNat_opNN, and_assoc]

/-! ## A recognized word is the word of its instruction

A word of a known category, and of a known subcode where there is one, is spelled by its other fields. -/

theorem encNNN_of_cat {w : Word} {c : Nibble} (hc : (opCat w).toNat = c.toNat) : encNNN c (opNNN w) = w := by
  rw [← BitVec.eq_of_toNat_eq hc, encNNN_fields]

theorem encXNN_of_cat {w : Word} {c : Nibble} (hc : (opCat w).toNat = c.toNat) : encXNN c (opX w) (opNN w) = w := by
  rw [← BitVec.eq_of_toNat_eq hc, encXNN_fields]

theorem encXYN_of_cat {w : Word} {c : Nibble} (hc : (opCat w).toNat = c.toNat) :
    encXYN c (opX w) (opY w) (opN w) = w := by
  rw [← BitVec.eq_of_toNat_eq hc, encXYN_fields]

theorem encXYN_of_cat_low {w : Word} {c n : Nibble} (hc : (opCat w).toNat = c.toNat) (hn : (opN w).toNat = n.toNat) :
    encXYN c (opX w) (opY w) n = w := by
  rw [← BitVec.eq_of_toNat_eq hn, encXYN_of_cat hc]

theorem encXNN_of_cat_sub {w : Word} {c : Nibble} {n : Byte} (hc : (opCat w).toNat = c.toNat) (hn : opNN w = n) :
    encXNN c (opX w) n = w := by
  rw [← hn, encXNN_of_cat hc]

theorem encode_of_decodeCategory0 {w : Word} {i : Instr} (hc : (opCat w).toNat = 0)
    (h : decodeCategory0 w = .instr i) : encode i = w := by
  rw [← encNNN_of_cat (c := 0#4) hc]
  unfold decodeCategory0 at h
  split_ifs at h with hcls hret <;> cases h
  · rw [hcls]; rfl
  · rw [hret]; rfl

theorem encode_of_decodeCategory8 {w : Word} {i : Instr} (hc : (opCat w).toNat = 8)
    (h : decodeCategory8 w = .instr i) : encode i = w := by
  unfold decodeCategory8 at h
  split at h <;> cases h
  all_goals exact encXYN_of_cat_low hc (by assumption)

theorem encode_of_decodeCategoryE {w : Word} {i : Instr} (hc : (opCat w).toNat = 0xE)
    (h : decodeCategoryE w = .instr i) : encode i = w := by
  unfold decodeCategoryE at h
  split_ifs at h <;> cases h
  all_goals exact encXNN_of_cat_sub hc (by assumption)

theorem encode_of_decodeCategoryF {w : Word} {i : Instr} (hc : (opCat w).toNat = 0xF)
    (h : decodeCategoryF w = .instr i) : encode i = w := by
  unfold decodeCategoryF at h
  split_ifs at h <;> cases h
  all_goals exact encXNN_of_cat_sub hc (by assumption)

/-- The encoder takes a recognized word back: decoding drops no bit (R92, R94). Case `h_1` is category 0, and so on to
`h_16`, category F. -/
theorem encode_of_decode {w : Word} {i : Instr} (h : decode w = .instr i) : encode i = w := by
  unfold decode at h
  split at h
  case h_1 hc => exact encode_of_decodeCategory0 hc h
  case h_9 hc => exact encode_of_decodeCategory8 hc h
  case h_15 hc => exact encode_of_decodeCategoryE hc h
  case h_16 =>
    have hlt := (opCat w).isLt
    have hc : (opCat w).toNat = 0xF := by grind
    exact encode_of_decodeCategoryF hc h
  all_goals cases h
  case h_2 hc | h_3 hc | h_11 hc | h_12 hc => exact encNNN_of_cat hc
  case h_4 hc | h_5 hc | h_7 hc | h_8 hc | h_13 hc => exact encXNN_of_cat hc
  case h_6 hc | h_10 hc | h_14 hc => exact encXYN_of_cat hc

/-! ## Rows and words (R96) -/

/-- The word of an instruction selects that instruction's row: the mask keeps what the row's format fixes. -/
theorem encode_and_row (i : Instr) : encode i &&& i.row.2 = i.row.1 := by
  cases i with
  | cls | ret => rfl
  | jp | call | ldI | jpV0 => exact encNNN_and_cat _ _
  | seImm | sneImm | ldImm | addImm | rnd => exact encXNN_and_cat _ _ _
  | seReg | sneReg | drw => exact encXYN_and_cat _ _ _ _
  | ldReg | orReg | andReg | xorReg | addReg | subReg | shr | subnReg | shl => exact encXYN_and_sub _ _ _ _
  | skp | sknp | ldVxDt | ldVxK | ldDtVx | ldStVx | addI | ldF | ldB | stRegs | ldRegs => exact encXNN_and_sub _ _ _

/-- Two words that agree under a mask agree in every field the mask covers; each field of R92 is cut so. -/
theorem field_congr {v w m : Word} {start len : Nat} (hm : m.extractLsb' start len = BitVec.allOnes len)
    (h : v &&& m = w &&& m) : v.extractLsb' start len = w.extractLsb' start len := by
  have hf := congrArg (BitVec.extractLsb' start len) h
  simpa only [BitVec.extractLsb'_and, hm, BitVec.and_allOnes] using hf

/-- A word that agrees with the word of `j` under the mask of `j`'s row decodes to an instruction of that row: the
mask covers the fields by which the decoder selects (R94). -/
theorem decode_of_and_eq {w : Word} {j : Instr} (h : w &&& j.row.2 = encode j &&& j.row.2) :
    ∃ i, decode w = .instr i ∧ i.row = j.row := by
  have hc : opCat w = opCat (encode j) := field_congr (by cases j <;> simp [Instr.row]) h
  cases j with
  | cls | ret =>
    have hn : opNNN w = opNNN (encode _) := field_congr (m := 0xFFFF#16) (by decide) h
    exact ⟨_, by rw [← encNNN_fields w, hc, hn, encNNN_fields, decode_encode], rfl⟩
  | jp | call | ldI | jpV0 | seImm | sneImm | ldImm | addImm | rnd | seReg | sneReg | drw =>
    simp [decode, hc, encode, Instr.row]
  | ldReg | orReg | andReg | xorReg | addReg | subReg | shr | subnReg | shl =>
    have hn : opN w = opN (encode _) := field_congr (m := 0xF00F#16) (by decide) h
    simp [decode, decodeCategory8, hc, hn, encode, Instr.row]
  | skp | sknp =>
    have hn : opNN w = opNN (encode _) := field_congr (m := 0xF0FF#16) (by decide) h
    simp [decode, decodeCategoryE, hc, hn, encode, Instr.row]
  | ldVxDt | ldVxK | ldDtVx | ldStVx | addI | ldF | ldB | stRegs | ldRegs =>
    have hn : opNN w = opNN (encode _) := field_congr (m := 0xF0FF#16) (by decide) h
    simp [decode, decodeCategoryF, hc, hn, encode, Instr.row]

/-- A word selects the row of `j` exactly when it decodes to an instruction of that row. -/
theorem selects_row_iff {w : Word} {j : Instr} :
    w &&& j.row.2 = j.row.1 ↔ ∃ i, decode w = .instr i ∧ i.row = j.row := by
  constructor
  · intro h
    exact decode_of_and_eq (h.trans (encode_and_row j).symm)
  · rintro ⟨i, hi, hrow⟩
    rw [← hrow, ← encode_of_decode hi, encode_and_row]

end Sys2Proof

namespace Sys2Proof.Machine

/-- Settles O1, by running the decoder on each word. -/
theorem sampleWordsDecode : Obligations.SampleWordsDecode := by
  unfold Obligations.SampleWordsDecode
  decide

/-- Settles O4: a word selects exactly the rows of the instructions it decodes to, and it decodes to at most one. -/
theorem rowsSelectWords : Obligations.RowsSelectWords := by
  refine ⟨fun w i hw j => ?recognized, fun w g hw j => ?unrecognized⟩
  case recognized =>
    simp only [selects_row_iff, hw, Decoded.instr.injEq, exists_eq_left']
    exact eq_comm
  case unrecognized => simp [selects_row_iff, hw]

/-- Settles O5: a group is named at the second level of one category only, and there under the group's condition. -/
theorem unrecognizedGroups : Obligations.UnrecognizedGroups := by
  intro w
  simp [decode_eq_unrecognized, decodeCategory0_eq_unrecognized, decodeCategory8_eq_unrecognized,
    decodeCategoryE_eq_unrecognized, decodeCategoryF_eq_unrecognized]

/-- Settles O6: the category alone selects the skip, and neither skip's execution reads the low digit. -/
theorem lowDigitIgnored : Obligations.LowDigitIgnored := by
  refine ⟨fun x y low => ⟨rfl, ?_, rfl, ?_⟩, fun w s => ⟨fun hc => ?_, fun hc => ?_⟩⟩
  · exact beq_iff_eq
  · exact beq_iff_eq
  · exact ⟨opX w, opY w, opN w, by simp [decode, toNat_opCat, hc], rfl, val_opX w, val_opY w⟩
  · exact ⟨opX w, opY w, opN w, by simp [decode, toNat_opCat, hc], rfl, val_opX w, val_opY w⟩

end Sys2Proof.Machine
end

section
/-! PROOF. The step cycle (40_step_cycle.md): the gates, the fetch and its advance, the instruction or the no-operation
that follows, and the faults, which change nothing but `FAULT` and the trace. -/

namespace Sys2Proof

theorem decodeTableWord_eq_some {nbits w : Nat} {i : Instr} :
    decodeTableWord nbits w = some i ↔ decode (tableWord nbits w) = .instr i := by
  rw [decodeTableWord, decodeBytes_bytesOfWord]
  cases decode (tableWord nbits w) <;> simp

end Sys2Proof

namespace Sys2Proof.Machine

/-! ## Faults of an instruction -/

/-- `FAULT` is among the fields an instruction may change exactly when it is one of the six that may raise (R127). -/
theorem fault_mem_touches {i : Instr} : Field.fault ∈ touches i ↔ i.mayRaise ≠ none := by
  cases i <;> simp [touches, Instr.mayRaise]

/-- Settles O14: the frame of an instruction that may not raise holds `FAULT`. -/
theorem otherInstructionsNeverFault : Obligations.OtherInstructionsNeverFault := by
  intro i s hi
  obtain ⟨t, ht, hframe⟩ := exec_frame i s
  exact ⟨t, ht, hframe .fault fun hmem => fault_mem_touches.1 hmem hi⟩

/-- The two ways an instruction ends (R125): it raises the fault that it may raise and does nothing else, or it
leaves `FAULT` alone. -/
theorem exec_raises_or_keeps_fault (i : Instr) (s : State) :
    (∃ c info, i.mayRaise = some c ∧ exec i s = .next (s.raise c info)) ∨
      ∃ t, exec i s = .next t ∧ t.fault = s.fault := by
  cases i with
  | ret =>
    cases hp : s.sp.popSlot with
    | none => exact .inl ⟨_, _, rfl, execRet_empty (popSlot_eq_none.1 hp)⟩
    | some j => exact .inr ⟨_, execRet_pop hp, rfl⟩
  | call nnn =>
    cases hp : s.sp with
    | full => exact .inl ⟨_, _, rfl, execCall_full nnn hp⟩
    | slot j => exact .inr ⟨_, execCall_push nnn hp, rfl⟩
  | drw x y n =>
    by_cases hb : n.toNat = 0 ∨ s.i.toNat + n.toNat ≤ 4096
    · exact .inr ⟨_, execDrw_draw x y n hb, frame_togglePixels s.advance _ .fault (by simp)⟩
    · exact .inl ⟨_, _, rfl, execDrw_fault x y n (by omega) (by omega)⟩
  | ldB x =>
    by_cases hb : s.i.toNat ≤ 4093
    · exact .inr ⟨_, execLdB_store x hb, rfl⟩
    · exact .inl ⟨_, _, rfl, execLdB_fault x (by omega)⟩
  | stRegs x =>
    by_cases hb : s.i.toNat + x.val ≤ 4095
    · exact .inr ⟨_, execStRegs_store x hb, rfl⟩
    · exact .inl ⟨_, _, rfl, execStRegs_fault x (by omega)⟩
  | ldRegs x =>
    by_cases hb : s.i.toNat + x.val ≤ 4095
    · exact .inr ⟨_, execLdRegs_load x hb, rfl⟩
    · exact .inl ⟨_, _, rfl, execLdRegs_fault x (by omega)⟩
  | _ => exact .inr (otherInstructionsNeverFault _ s rfl)

/-! ## The step -/

/-- Settles O13: of the outcomes of a step, only a fetch fault and an instruction that raises latch a fault. -/
theorem faultsArePrecise : Obligations.FaultsArePrecise := by
  intro s t hs hstep ht
  rcases step_cases hstep with ⟨-, rfl⟩ | ⟨-, hp, rfl⟩ | ⟨-, -, i, hd, hexec⟩ | ⟨-, -, g, -, rfl⟩
  case inl => exact absurd hs ht
  case inr.inl => exact ⟨raise_entry s _ _, .inl ⟨rfl, hp⟩⟩
  case inr.inr.inl =>
    rcases exec_raises_or_keeps_fault i s with ⟨c, info, hc, hraise⟩ | hkeep
    · cases hexec.symm.trans hraise
      exact ⟨raise_entry s c info, .inr ⟨i, hd, hc⟩⟩
    · have hfault : t.fault = s.fault := of_next hkeep hexec
      exact absurd ((congrArg FaultLatch.cause hfault).trans hs) ht
  case inr.inr.inr => exact absurd hs ht

/-- Settles O12: blocked, a fetch fault, an instruction, or an unrecognized word, each with its next state. -/
theorem stepAnswersNextState : Obligations.StepAnswersNextState := by
  intro s
  by_cases hr : s.Running
  · by_cases hp : s.pc.toNat ≤ 4094
    · rw [step_word hr hp]
      cases decode s.wordAtPc with
      | instr i =>
        obtain ⟨t, ht, -⟩ := exec_frame i s
        exact ⟨t, ht⟩
      | unrecognized g => exact ⟨_, rfl⟩
    · exact ⟨_, step_outside hr (by omega)⟩
  · exact ⟨s, step_blocked hr⟩

/-- Settles O9: each of the two gates excludes a running state. -/
theorem blockedStepChangesNothing : Obligations.BlockedStepChangesNothing := by
  intro s h
  refine step_blocked fun ⟨hfault, hwait⟩ => ?_
  rcases h with hf | hw
  · exact hf hfault
  · exact absurd (hwait.symm.trans hw) (by decide)

/-- Settles O7. -/
theorem stepRunsDecodedInstruction : Obligations.StepRunsDecodedInstruction :=
  fun _ _ hr hp hd => step_of_decodeBytes hr hp hd

/-- An unrecognized word moves `PC` and emits one diagnostic, which reaches neither adapter (R126). -/
theorem frame_unrecognized (s : State) (op : Word) : Frame [.pc, .trace] s (s.unrecognized op) := fun f hf => by
  cases f <;> simp_all [Field.Same]

/-- Settles O8. -/
theorem unrecognizedWordIsNoOperation : Obligations.UnrecognizedWordIsNoOperation := by
  intro s g hr hp hd
  have hword : decode s.wordAtPc = .unrecognized g := hd
  have hstep : step s = .next (s.unrecognized s.wordAtPc) := by rw [step_word hr hp, hword]
  exact ⟨_, hstep, rfl, rfl, frame_unrecognized s _⟩

/-! ## The fetch -/

/-- Settles O11: 2 above an address below 4094 is below 4096, and the wrap goes to 0x200. -/
theorem fetchAdvanceWraps : Obligations.FetchAdvanceWraps :=
  fun a => ⟨toNat_nextPc a, Nat.le_of_lt_succ (nextPc_lt a)⟩

/-- Settles O10: the fetch gives the word of the two bytes, or the first address outside. -/
theorem fetchReadsOrFaults : Obligations.FetchReadsOrFaults := by
  intro s
  refine ⟨fun hp => ?reads, fun hp hr => ?faults⟩
  case reads =>
    rcases fetch_cases s with ⟨-, hword⟩ | ⟨hout, -⟩
    · exact ⟨_, hword, toNat_wordOfBytes _ _⟩
    · omega
  case faults =>
    rw [← max_def, max_comm]
    exact ⟨_, step_outside hr hp, raise_entry s _ _⟩

/-! ## The placed word (log entry 7) -/

/-- The placed bytes stand at the placed `PC`, so they spell the word again (R64). -/
theorem wordAtPc_withFetchWord (s : State) (nbits w : Nat) :
    (s.withFetchWord nbits w).wordAtPc = tableWord nbits w := by
  rw [State.wordAtPc, withFetchWord_mem, Memory.read_writeBytes, Memory.read_writeBytes]
  simp

/-- Settles O60: the placed state runs, fetches, and finds the table word at `PC`. -/
theorem placedWordRuns : Obligations.PlacedWordRuns := by
  intro s w i hd
  rw [step_word (withFetchWord_running s 16 w) (withFetchWord_pc_le s 16 w), wordAtPc_withFetchWord,
    decodeTableWord_eq_some.1 hd]

end Sys2Proof.Machine
end

section
/-! PROOF. Control flow (41_control_flow.md): the stack that a call and a return move, the two jumps, the four skips
that read registers, and the jump to itself, which no schedule leaves. -/

namespace Sys2Proof.Machine

/-! ## Call and return (R140, R142) -/

/-- Settles O16: a stack that is not empty has a slot to pop, one above `SP`. -/
theorem returnPopsOrUnderflows : Obligations.ReturnPopsOrUnderflows := by
  intro s
  refine ⟨fun hne => ?pops, fun hempty => ⟨_, execRet_empty hempty, raise_entry s _ _⟩⟩
  case pops =>
    obtain ⟨j, hj⟩ := Option.ne_none_iff_exists'.1 fun hnone => hne (popSlot_eq_none.1 hnone)
    exact ⟨_, execRet_pop hj, popSlot_eq_some hj, ⟨j, rfl, rfl⟩,
      ((frame_advance s).trans (frame_pop _ j)).mono (by simp)⟩

/-- The slot a push writes holds the `PC` that was pushed. -/
theorem push_stack_same (s : State) (j : Fin 16) : (s.push j).stack[j] = s.pc := by simp

theorem push_stack_other (s : State) {j k : Fin 16} (h : k ≠ j) : (s.push j).stack[k] = s.stack[k] :=
  Vector.getElem_set_ne j.isLt k.isLt fun hjk => h (Fin.ext hjk.symm)

/-- The opcode of a call, which an overflow reports. -/
theorem toNat_encode_call (nnn : Addr12) : (encode (.call nnn)).toNat = 0x2000 + nnn.toNat :=
  toNat_encNNN 0x2#4 nnn

/-- Settles O17: the call that fits pushes the advanced `PC`; the other reports its own opcode. -/
theorem callPushesOrOverflows : Obligations.CallPushesOrOverflows := by
  intro nnn s
  refine ⟨fun j hj => ?pushes, fun hfull => ?overflows⟩
  case pushes =>
    have hsp : (StackPtr.below j).toInt = s.sp.toInt - 1 := by
      rw [hj]
      exact toInt_below j
    exact ⟨_, execCall_push nnn hj, push_stack_same s.advance j, fun k hk => push_stack_other s.advance hk, hsp,
      toNat_addrOf nnn,
      (((frame_advance s).trans (frame_push _ j)).trans (frame_setPc _ _)).mono (by simp)⟩
  case overflows =>
    rw [← toNat_encode_call]
    exact ⟨_, execCall_full nnn hfull, raise_entry s _ _⟩

/-- Settles O18: the return pops the slot that the call pushed, which brings `SP` back, so the frame goes field by
field: the frames of the two instructions leave `SP` out. -/
theorem callThenReturn : Obligations.CallThenReturn := by
  intro nnn s hne
  cases hp : s.sp with
  | full => exact absurd hp hne
  | slot j =>
    have hpop : ((s.advance.push j).setPc (addrOf nnn)).sp.popSlot = some j := popSlot_below j
    refine ⟨_, _, execCall_push nnn hp, execRet_pop hpop, push_stack_same s.advance j, rfl, fun f hf => ?_⟩
    cases f <;> simp_all [Field.Same]

/-! ## Jumps (R141, R147) -/

/-- A running state at 4095 or above takes a fetch fault at its next step (R122). -/
theorem step_fetch_fault {s : State} (h : s.Running) (hp : 4095 ≤ s.pc.toNat) :
    ∃ t, step s = .next t ∧ FaultEntry .fetchBounds (max s.pc.toNat 4096) s t :=
  ⟨_, step_outside h hp, raise_entry s _ _⟩

/-- A jump to its own address gives the state back whole (R141). -/
theorem execJp_self {nnn : Addr12} {s : State} (h : nnn.toNat = s.pc.toNat) : exec (.jp nnn) s = .next s := by
  have haddr : addrOf nnn = s.pc := BitVec.eq_of_toNat_eq ((toNat_addrOf nnn).trans h)
  simp only [exec, execJp, haddr]
  rfl

theorem Frame.refl (c : List Field) (s : State) : Frame c s s := fun f _ => by
  cases f <;> simp [Field.Same]

/-- Settles O20: `PC` is 0xFFF after `JP 0xFFF`, where a fetch faults, and a jump to itself gives the state back. -/
theorem jumpGoesToAddress : Obligations.JumpGoesToAddress := by
  intro nnn s
  have hpc : (s.setPc (addrOf nnn)).pc.toNat = nnn.toNat := toNat_addrOf nnn
  refine ⟨s.setPc (addrOf nnn), rfl, hpc, frame_setPc s _, fun hnnn hr => ?_, fun hself => ?_⟩
  · have hout : 4095 ≤ (s.setPc (addrOf nnn)).pc.toNat := by rw [hpc, hnnn]; decide
    obtain ⟨u, hu, hfault, -⟩ := step_fetch_fault (s := s.setPc (addrOf nnn)) hr hout
    exact ⟨u, hu, congrArg FaultLatch.cause hfault⟩
  · exact of_next ⟨s, execJp_self hself, Frame.refl [] s⟩ rfl

/-- Settles O21: the sum fits 16 bits, so `PC` holds it, and the next fetch starts from it. -/
theorem indexedJumpAddsV0 : Obligations.IndexedJumpAddsV0 := by
  intro nnn s
  have hpc : (s.setPc (indexedTarget s.v[0] nnn)).pc.toNat = s.v[0].toNat + nnn.toNat := toNat_indexedTarget s.v[0] nnn
  refine ⟨s.setPc (indexedTarget s.v[0] nnn), rfl, hpc, frame_setPc s _, fun hout hr => ?_⟩
  rw [← hpc] at hout ⊢
  exact step_fetch_fault hr hout

/-! ## Skips (R143 to R146, R148) -/

/-- All that a skip does: `PC` is the advanced `PC`, and 2 more exactly when the condition it tests holds. -/
theorem advance_skipIf_effect (s : State) {b : Bool} {c : Prop} [Decidable c] (h : b = true ↔ c) :
    Frame [.pc] s (s.advance.skipIf b) ∧
      (s.advance.skipIf b).pc.toNat = (nextPc s.pc).toNat + if c then 2 else 0 := by
  refine ⟨frame_setPc s _, ?_⟩
  rw [State.skipIf_pc, State.advance_pc, toNat_skip]
  simp only [h]

/-- Settles O22. -/
theorem immediateSkips : Obligations.ImmediateSkips :=
  fun _ _ s => ⟨⟨_, rfl, advance_skipIf_effect s beq_iff_eq⟩, ⟨_, rfl, advance_skipIf_effect s bne_iff_ne⟩⟩

/-- Settles O23. -/
theorem registerSkips : Obligations.RegisterSkips :=
  fun _ _ _ s => ⟨⟨_, rfl, advance_skipIf_effect s beq_iff_eq⟩, ⟨_, rfl, advance_skipIf_effect s bne_iff_ne⟩⟩

/-! ## A jump to itself (R296) -/

/-- What every operation of a schedule answers with and keeps, the schedule answers with and keeps. -/
theorem runOps_keeps {P : Config.Params} {p : State → Prop} (ops : List Op)
    (hkeep : ∀ o ∈ ops, ∀ s, p s → ∃ t, runOp P o s = .next t ∧ p t) {s : State} (h : p s) :
    ∃ t, runOps P ops s = .next t ∧ p t := by
  induction ops generalizing s with
  | nil => exact ⟨s, rfl, h⟩
  | cons o rest ih =>
    obtain ⟨t, ht, hpt⟩ := hkeep o List.mem_cons_self s h
    obtain ⟨u, hu, hpu⟩ := ih (fun o' ho' => hkeep o' (List.mem_cons_of_mem o ho')) hpt
    exact ⟨u, by simpa only [runOps, ht] using hu, hpu⟩

theorem frame_tick (s : State) : Frame [.dt, .st, .tone, .trace] s s.tick := fun f hf => by
  rcases tick_cases s with hstop | hcount
  · rw [tick_stops hstop]
    cases f <;> simp_all [Field.Same]
  · rw [tick_counts hcount]
    cases f <;> simp_all [Field.Same]

theorem frame_setKeys (s : State) (ks : BitVec 16) : Frame [.keys] s { s with keys := ks } := fun f hf => by
  cases f <;> simp_all [Field.Same]

/-- While no key is awaited, a key-down reaches the pressed set alone (R256). -/
theorem frame_keyDown {s : State} (h : s.wait = false) (P : Config.Params) (p : Nat) :
    Frame [.keys] s (s.keyDown P p) := by
  cases hk : keyOf P p with
  | none => rw [keyDown_unmapped hk]; exact Frame.refl _ s
  | some k =>
    have hidle : ({ s with keys := pressKey s.keys k } : State).wait = false := h
    rw [keyDown_mapped hk, resolveWait_idle hidle]
    exact frame_setKeys s _

theorem frame_keyUp (P : Config.Params) (p : Nat) (s : State) : Frame [.keys] s (s.keyUp P p) := by
  cases hk : keyOf P p with
  | none => rw [keyUp_unmapped hk]; exact Frame.refl _ s
  | some k => rw [keyUp_mapped hk]; exact frame_setKeys s _

/-- A running state whose word at `PC` is a jump to `PC`. -/
def AtSelfJump (nnn : Addr12) (s : State) : Prop :=
  s.Running ∧ s.pc.toNat ≤ 4094 ∧ nnn.toNat = s.pc.toNat ∧
    decodeBytes (s.mem.read s.pc.toNat) (s.mem.read (s.pc.toNat + 1)) = .instr (.jp nnn)

theorem AtSelfJump.step_eq {nnn : Addr12} {s : State} (h : AtSelfJump nnn s) : step s = .next s := by
  obtain ⟨hr, hp, hself, hd⟩ := h
  rw [step_of_decodeBytes hr hp hd, execJp_self hself]

/-- Being at a jump to itself is said in `PC`, memory, `FAULT` and the latch, so no other change ends it. -/
theorem AtSelfJump.of_frame {nnn : Addr12} {s t : State} (h : AtSelfJump nnn s)
    (hf : Frame [.dt, .st, .keys, .tone, .trace] s t) : AtSelfJump nnn t := by
  have hpc : t.pc = s.pc := hf .pc (by simp)
  have hmem : ∀ a, t.mem.read a = s.mem.read a := hf .mem (by simp)
  have hfault : t.fault = s.fault := hf .fault (by simp)
  have hwait : t.wait = s.wait := hf .wait (by simp)
  simpa only [AtSelfJump, State.Running, hpc, hmem, hfault, hwait] using h

/-- At a jump to itself, every operation but the two resets changes only timers, keys, tone and trace. -/
theorem AtSelfJump.runOp_frame {nnn : Addr12} {s : State} (h : AtSelfJump nnn s) (P : Config.Params) {o : Op}
    (ho : o ≠ .reset ∧ ∀ rom, o ≠ .loadRom rom) :
    ∃ t, runOp P o s = .next t ∧ Frame [.dt, .st, .keys, .tone, .trace] s t := by
  have ⟨⟨_, hwait⟩, _⟩ := h
  cases o with
  | step => exact ⟨s, h.step_eq, Frame.refl _ s⟩
  | tick => exact ⟨_, rfl, (frame_tick s).mono (by simp)⟩
  | keyDown p => exact ⟨_, rfl, (frame_keyDown hwait P p).mono (by simp)⟩
  | keyUp p => exact ⟨_, rfl, (frame_keyUp P p s).mono (by simp)⟩
  | reset => exact absurd rfl ho.1
  | loadRom rom => exact absurd rfl (ho.2 rom)

/-- Settles O53: each operation stays within the frame, and within the frame the jump to itself stands. -/
theorem jumpToSelfStays : Obligations.JumpToSelfStays := by
  intro P ops s nnn hr hp hd hself hops
  have hat : AtSelfJump nnn s := ⟨hr, hp, hself, hd⟩
  refine ⟨hat.step_eq, runOps_keeps ops (fun o ho t hst => ?_) (Frame.refl _ s)⟩
  obtain ⟨u, hu, htu⟩ := (hat.of_frame hst).runOp_frame P (hops o ho)
  exact ⟨u, hu, (hst.trans htu).mono (by simp)⟩

end Sys2Proof.Machine
end

section
/-! PROOF. Arithmetic and logic (42_alu.md): an instruction writes its result to `V[x]` over the advanced state, and
the flag writers then write VF (R171), so each statement is the value of a result or a flag beside what those writes
leave unchanged. -/

namespace Sys2Proof.Machine

/-! ## What the writes give and leave unchanged -/

theorem writeReg_get_same (s : State) (x : Reg) (b : Byte) : (s.writeReg x b).v[x] = b := by
  rw [writeReg_get, if_pos rfl]

/-- The result stands in `V[x]` unless the flag overwrites it. -/
theorem writeWithFlag_get_result (s : State) {x : Reg} (b f : Byte) (h : x ≠ 15) :
    (s.writeWithFlag x b f).v[x] = b := by
  rw [writeWithFlag_get, if_neg h, if_pos rfl]

theorem advance_writeReg_rest (s : State) (x : Reg) (b : Byte) :
    (∀ r, r ≠ x → (s.advance.writeReg x b).v[r] = s.v[r]) ∧ (s.advance.writeReg x b).pc = nextPc s.pc ∧
      Frame [.v, .pc] s (s.advance.writeReg x b) :=
  ⟨fun _ hr => writeReg_get_other s.advance b hr, rfl,
    ((frame_advance s).trans (frame_writeReg _ x b)).mono (by simp)⟩

theorem advance_writeWithFlag_rest (s : State) (x : Reg) (b f : Byte) :
    (∀ r, r ≠ x → r ≠ 15 → (s.advance.writeWithFlag x b f).v[r] = s.v[r]) ∧
      (s.advance.writeWithFlag x b f).pc = nextPc s.pc ∧ Frame [.v, .pc] s (s.advance.writeWithFlag x b f) :=
  ⟨fun _ hx h15 => writeWithFlag_get_other s.advance b f (not_or_intro hx h15), rfl,
    ((frame_advance s).trans (frame_writeWithFlag _ x b f)).mono (by simp)⟩

/-! ## The values of the results and the flags -/

theorem toNat_carryFlag (p q : Byte) : (carryFlag p q).toNat = if p.toNat + q.toNat > 255 then 1 else 0 := by
  simp [carryFlag]

theorem toNat_notBorrowFlag (p q : Byte) : (notBorrowFlag p q).toNat = if p.toNat ≥ q.toNat then 1 else 0 := by
  simp [notBorrowFlag]

/-- A difference of bytes is the difference of the integers, reduced mod 256. -/
theorem toNat_sub_emod (p q : Byte) : ((p - q).toNat : Int) = ((p.toNat : Int) - q.toNat) % 256 := by
  rw [BitVec.toNat_sub]
  omega

/-! ## The flag writers (R166 to R170) -/

/-- Settles O26. -/
theorem addSetsCarry : Obligations.AddSetsCarry := by
  intro x y s
  refine ⟨_, rfl, fun hx => ?sum, ?carry, advance_writeWithFlag_rest s x _ _⟩
  case sum => rw [writeWithFlag_get_result _ _ _ hx, BitVec.toNat_add]
  case carry => rw [writeWithFlag_vf, toNat_carryFlag]

/-- What `SUB` and `SUBN` do alike: either writes a difference `p - q` of its operands and its not-borrow flag. -/
theorem exec_subtract_effect {i : Instr} {s : State} {x : Reg} {p q : Byte}
    (h : exec i s = .next (s.advance.writeWithFlag x (p - q) (notBorrowFlag p q))) :
    ∃ t, exec i s = .next t ∧ (x ≠ 15 → (t.v[x].toNat : Int) = ((p.toNat : Int) - q.toNat) % 256) ∧
      t.v[15].toNat = (if p.toNat ≥ q.toNat then 1 else 0) ∧
      (∀ r, r ≠ x → r ≠ 15 → t.v[r] = s.v[r]) ∧ t.pc = nextPc s.pc ∧ Frame [.v, .pc] s t := by
  refine ⟨_, h, fun hx => ?difference, ?notBorrow, advance_writeWithFlag_rest s x _ _⟩
  case difference => rw [writeWithFlag_get_result _ _ _ hx, toNat_sub_emod]
  case notBorrow => rw [writeWithFlag_vf, toNat_notBorrowFlag]

/-- Settles O27: `SUB` subtracts `V[y]` from `V[x]`, `SUBN` the other way round. -/
theorem subtractSetsNotBorrow : Obligations.SubtractSetsNotBorrow := fun x y s =>
  ⟨exec_subtract_effect (p := s.v[x]) (q := s.v[y]) rfl,
    exec_subtract_effect (p := s.v[y]) (q := s.v[x]) rfl⟩

/-- Settles O28. -/
theorem shiftsSetBitOut : Obligations.ShiftsSetBitOut := by
  intro x y s
  refine ⟨⟨_, rfl, fun hx => ?half, ?bit0, advance_writeWithFlag_rest s x _ _⟩,
    ⟨_, rfl, fun hx => ?double, ?bit7, advance_writeWithFlag_rest s x _ _⟩⟩
  case half => rw [writeWithFlag_get_result _ _ _ hx, BitVec.toNat_ushiftRight, Nat.shiftRight_one]
  case bit0 => rw [writeWithFlag_vf, toNat_shrFlag]
  case double => rw [writeWithFlag_get_result _ _ _ hx, BitVec.toNat_shiftLeft, Nat.shiftLeft_eq, pow_one, mul_comm]
  case bit7 => rw [writeWithFlag_vf, toNat_shlFlag]

/-! ## The instructions without a flag (R160 to R165, R173) -/

/-- Settles O24. -/
theorem immediateLoadAndAdd : Obligations.ImmediateLoadAndAdd := by
  intro x nn s
  refine ⟨⟨_, rfl, writeReg_get_same _ x nn, advance_writeReg_rest s x _⟩,
    ⟨_, rfl, ?sum, advance_writeReg_rest s x _⟩⟩
  case sum => rw [writeReg_get_same, BitVec.toNat_add]

/-- Settles O25. -/
theorem copyAndLogic : Obligations.CopyAndLogic := by
  intro x y s
  refine ⟨⟨_, rfl, writeReg_get_same _ x _, advance_writeReg_rest s x _⟩,
    ⟨_, rfl, fun k => ?or, advance_writeReg_rest s x _⟩,
    ⟨_, rfl, fun k => ?and, advance_writeReg_rest s x _⟩,
    ⟨_, rfl, fun k => ?xor, advance_writeReg_rest s x _⟩⟩
  case or => rw [writeReg_get_same, BitVec.getLsbD_or]
  case and => rw [writeReg_get_same, BitVec.getLsbD_and]
  case xor => rw [writeReg_get_same, BitVec.getLsbD_xor, Bool.bne_eq_xor]

/-- Settles O29: the byte is masked before it is written, so the bits outside `nn` are 0. -/
theorem randomByteIsMasked : Obligations.RandomByteIsMasked := by
  intro x nn s
  refine ⟨_, rfl, writeReg_get_same _ x _, ?outside,
    fun _ hr => writeReg_get_other s.advance.draw8.2 _ hr, rfl, rfl,
    (((frame_advance s).trans (frame_draw8 _)).trans (frame_writeReg _ x _)).mono (by simp)⟩
  case outside =>
    rw [writeReg_get_same, BitVec.and_assoc, BitVec.and_not_self]
    exact BitVec.and_zero

end Sys2Proof.Machine
end

section
/-! PROOF. Index register and memory (43_index_memory.md): a store writes bytes from `I` upward and a load takes bytes
from there, so each statement is what one byte or one register holds beside what the move leaves unchanged. -/

namespace Sys2Proof.Machine

/-! ## Loads of the index register (R190 to R192) -/

theorem advance_setI_rest (s : State) (w : Word) :
    (s.advance.setI w).pc = nextPc s.pc ∧ Frame [.i, .pc] s (s.advance.setI w) :=
  ⟨rfl, ((frame_advance s).trans (frame_setI _ w)).mono (by simp)⟩

/-- The sum of a word and a byte, reduced mod 65536 (R191). -/
theorem toNat_add_setWidth (w : Word) (b : Byte) :
    (w + b.setWidth 16).toNat = (w.toNat + b.toNat) % 65536 := by
  rw [BitVec.toNat_add, BitVec.toNat_setWidth_of_le (by decide)]

/-- Settles O30. -/
theorem indexRegisterLoads : Obligations.IndexRegisterLoads :=
  ⟨fun nnn s => ⟨_, rfl, toNat_addrOf nnn, advance_setI_rest s _⟩,
    fun x s => ⟨⟨_, rfl, toNat_add_setWidth s.i s.v[x], advance_setI_rest s _⟩,
      ⟨_, rfl, toNat_glyphAddr s.v[x], advance_setI_rest s _⟩⟩⟩

/-! ## What a store gives and leaves unchanged (20_memory.md R67) -/

theorem Memory.read_writeBytes_inside (m : Memory) (a : Nat) {bs : List Byte} {k : Nat} (h : k < bs.length) :
    (m.writeBytes a bs).read (a + k) = bs[k] := by
  rw [Memory.read_writeBytes, if_pos (Nat.le_add_right a k), Nat.add_sub_cancel_left, List.getD_eq_getElem _ _ h]

theorem Memory.read_writeBytes_outside (m : Memory) {a b : Nat} {bs : List Byte} (h : b < a ∨ a + bs.length ≤ b) :
    (m.writeBytes a bs).read b = m.read b := by
  rw [Memory.read_writeBytes]
  split
  · exact List.getD_eq_default _ _ (by omega)
  · rfl

/-- What the stores do alike: `n + 1` bytes stored from `I` upward leave the bytes below and above them alone, and
every field but memory and the advanced `PC`. -/
theorem advance_store_rest (s : State) {bs : List Byte} {n : Nat} (hn : bs.length = n + 1) :
    (∀ a, a < s.i.toNat ∨ s.i.toNat + n < a →
      (s.advance.setMem (s.mem.writeBytes s.i.toNat bs)).mem.read a = s.mem.read a) ∧
      (s.advance.setMem (s.mem.writeBytes s.i.toNat bs)).pc = nextPc s.pc ∧
      Frame [.mem, .pc] s (s.advance.setMem (s.mem.writeBytes s.i.toNat bs)) :=
  ⟨fun _ ha => Memory.read_writeBytes_outside s.mem (by omega), rfl,
    ((frame_advance s).trans (frame_setMem _ _)).mono (by simp)⟩

/-! ## Decimal digits (R193) -/

/-- The stored digits are the decimal digits of the byte: each fits in a byte, so none is reduced. -/
theorem toNat_read_writeBytes_bcdDigits (m : Memory) (a : Nat) (b : Byte) :
    ((m.writeBytes a (bcdDigits b)).read a).toNat = b.toNat / 100 ∧
      ((m.writeBytes a (bcdDigits b)).read (a + 1)).toNat = b.toNat / 10 % 10 ∧
      ((m.writeBytes a (bcdDigits b)).read (a + 2)).toNat = b.toNat % 10 := by
  have digit : ∀ k (hk : k < 3), ((m.writeBytes a (bcdDigits b)).read (a + k)).toNat = (bcdDigits b)[k].toNat :=
    fun _ hk => congrArg BitVec.toNat (Memory.read_writeBytes_inside m a hk)
  exact ⟨(digit 0 (by decide)).trans (Nat.mod_eq_of_lt (by omega)),
    (digit 1 (by decide)).trans (Nat.mod_eq_of_lt (by omega)),
    (digit 2 (by decide)).trans (Nat.mod_eq_of_lt (by omega))⟩

/-- Settles O31. -/
theorem decimalDigitsStored : Obligations.DecimalDigitsStored := by
  intro x s
  refine ⟨fun hin => ?stores, fun hout => ⟨_, execLdB_fault x hout, raise_entry s _ _⟩⟩
  obtain ⟨hundreds, tens, ones⟩ := toNat_read_writeBytes_bcdDigits s.mem s.i.toNat s.v[x]
  exact ⟨_, execLdB_store x hin, hundreds, tens, ones, advance_store_rest s (length_bcdDigits s.v[x])⟩

/-! ## Bulk stores and loads (R194, R195) -/

/-- Settles O32. -/
theorem registersStored : Obligations.RegistersStored := fun x s =>
  ⟨fun hin => ⟨_, execStRegs_store x hin, fun _ hk => read_writeBytes_regsUpTo s s.i.toNat hk,
      advance_store_rest s (length_regsUpTo s x)⟩,
    fun hout => ⟨_, execStRegs_fault x hout, raise_entry s _ _⟩⟩

/-- Where bytes are loaded from address `a` into `V0` to `Vx`, register `k` is byte `k` of them (R195). -/
theorem loadRegs_readBytes_get (s : State) (m : Memory) (a : Nat) {x k : Reg} (h : k ≤ x) :
    (s.loadRegs (m.readBytes a (x.val + 1))).v[k] = m.read (a + k.val) := by
  have hk : k.val < (m.readBytes a (x.val + 1)).length := by
    rw [Memory.length_readBytes]
    exact Nat.lt_succ_of_le h
  rw [State.loadRegs_v, Fin.getElem_fin, getElem_regsFrom _ _ _ _ k.isLt, if_pos (Nat.zero_le _), Nat.sub_zero,
    List.getD_eq_getElem _ _ hk, Memory.getElem_readBytes]

/-- The registers above `Vx` are not loaded (R195). -/
theorem loadRegs_readBytes_get_above (s : State) (m : Memory) (a : Nat) {x k : Reg} (h : x < k) :
    (s.loadRegs (m.readBytes a (x.val + 1))).v[k] = s.v[k] :=
  loadRegs_get_above s _ ((Memory.length_readBytes m a _).trans_le h)

/-- Settles O33. -/
theorem registersLoaded : Obligations.RegistersLoaded := fun x s =>
  ⟨fun hin => ⟨_, execLdRegs_load x hin, fun _ hk => loadRegs_readBytes_get s.advance s.mem s.i.toNat hk,
      fun _ hk => loadRegs_readBytes_get_above s.advance s.mem s.i.toNat hk, rfl,
      ((frame_advance s).trans (frame_loadRegs _ _)).mono (by simp)⟩,
    fun hout => ⟨_, execLdRegs_fault x hout, raise_entry s _ _⟩⟩

/-- Settles O34: the store leaves `I` alone, so the load reads where the registers were stored (20_memory.md R72). -/
theorem storeThenLoadRestores : Obligations.StoreThenLoadRestores := by
  intro x s w hin
  refine ⟨_, _, execStRegs_store x hin, execLdRegs_load x hin, fun k hk => ?stored, fun k hk => ?between⟩
  case stored => exact (loadRegs_readBytes_get _ _ _ hk).trans (read_writeBytes_regsUpTo s s.i.toNat hk)
  case between => exact loadRegs_readBytes_get_above _ _ _ hk

end Sys2Proof.Machine
end

section
/-! PROOF. Display (44_display.md): the pixels a draw toggles, in order and each once, are the 1 bits of the sprite, so
the display, the collision flag and the events are read off that list of pixels. -/

namespace Sys2Proof.Machine

/-! ## Clearing (R211) -/

/-- Settles O37. -/
theorem clearDisplay : Obligations.ClearDisplay := fun s =>
  ⟨_, rfl, fun X Y => Grid.blank_get X Y X.isLt Y.isLt, rfl, rfl,
    ((frame_advance s).trans (frame_emit_clear _)).mono (by simp)⟩

/-! ## The pixels of a sprite (R212, R213) -/

/-- A coordinate reached from `p` by `c` steps round the edge lies `c` steps from `p`, and no other does. -/
theorem eq_ofNat_add_iff {k : Nat} [NeZero k] {X : Fin k} {p c : Nat} (hc : c < k) :
    X = Fin.ofNat k (p + c) ↔ (X.val + k - p % k) % k = c := by
  have hp : p % k < k := Nat.mod_lt p (NeZero.pos k)
  have hX := X.isLt
  rw [Fin.ext_iff, Fin.val_ofNat, Nat.add_mod_eq_ite, Nat.mod_eq_of_lt hc]
  generalize p % k = q at hp ⊢
  by_cases h : q ≤ X.val
  · rw [show X.val + k - q = X.val - q + k by omega, Nat.add_mod_right, Nat.mod_eq_of_lt (by omega)]
    split <;> omega
  · rw [Nat.mod_eq_of_lt (by omega)]
    split <;> omega

theorem Memory.getD_readBytes (m : Memory) (a : Nat) {k j : Nat} (h : j < k) :
    (m.readBytes a k).getD j 0 = m.read (a + j) := by
  rw [List.getD_eq_getElem _ _ ((m.length_readBytes a k).symm ▸ h), Memory.getElem_readBytes]

/-- The pixels a draw toggles are those under the sprite's 1 bits. -/
theorem mem_spriteOf {s : State} {x y : Reg} {n : Nibble} {X : Fin 64} {Y : Fin 32} :
    (X, Y) ∈ s.spriteOf x y n ↔ s.spriteBit x y n X Y = true := by
  simp only [State.spriteOf, State.base, mem_spritePixels, Memory.length_readBytes, Prod.mk.injEq, Nat.zero_add,
    State.spriteBit, Bool.and_eq_true, decide_eq_true_eq]
  constructor
  · rintro ⟨r, hr, c, hc, hbit, hX, hY⟩
    rw [eq_ofNat_add_iff (by omega)] at hX hY
    rw [hX, hY, ← Memory.getD_readBytes _ _ hr]
    exact ⟨⟨hr, hc⟩, hbit⟩
  · rintro ⟨⟨hr, hc⟩, hbit⟩
    rw [← Memory.getD_readBytes _ _ hr] at hbit
    exact ⟨_, hr, _, hc, hbit, (eq_ofNat_add_iff (by omega)).2 rfl, (eq_ofNat_add_iff (by omega)).2 rfl⟩

theorem spriteOf_nodup (s : State) (x y : Reg) (n : Nibble) : (s.spriteOf x y n).Nodup :=
  spritePixels_nodup _ _ _ _ (by rw [Memory.length_readBytes]; omega)

/-- The pixels of a row in order: its 1 bits from left to right. -/
theorem rowPixels_eq_map_filter (px : Nat) (y : Fin 32) (b : Byte) :
    rowPixels px y b =
      ((List.range 8).filter fun c => b.getLsbD (7 - c)).map fun c => (Fin.ofNat 64 (px + c), y) := by
  rw [rowPixels, ← List.filterMap_eq_map, List.filterMap_filter]
  rfl

/-- The toggles of `k` rows that start at row `r` of a sprite stored at `a`. -/
theorem map_toggle_spritePixels (m : Memory) (px py a r k : Nat) :
    ((spritePixels px py r (m.readBytes (a + r) k)).map fun p => Event.toggle p.1 p.2) =
      (List.range' r k).flatMap fun j =>
        ((List.range 8).filter fun c => (m.read (a + j)).getLsbD (7 - c)).map fun c =>
          .toggle (Fin.ofNat 64 (px + c)) (Fin.ofNat 32 (py + j)) := by
  induction k generalizing r with
  | zero => rfl
  | succ k ih =>
    rw [Memory.readBytes, spritePixels, List.map_append, Nat.add_assoc, ih, rowPixels_eq_map_filter, List.map_map,
      List.range'_succ, List.flatMap_cons]
    rfl

/-- The events of a draw's toggles are the sprite's 1 bits, rows top to bottom, columns left to right. -/
theorem map_toggle_spriteOf (s : State) (x y : Reg) (n : Nibble) :
    ((s.spriteOf x y n).map fun p => Event.toggle p.1 p.2) = s.spriteToggles x y n := by
  rw [State.spriteToggles, List.range_eq_range' (n := n.toNat)]
  exact map_toggle_spritePixels s.mem _ _ s.i.toNat 0 n.toNat

/-! ## Drawing (R212) -/

theorem flagByte_eq_one {b : Bool} : flagByte b = 1 ↔ b = true := by cases b <;> simp [flagByte]

theorem writeReg_vf (s : State) (b : Byte) : (s.writeReg vf b).v[15] = b := writeReg_get_same s vf b

/-- A draw inverts the pixels under the sprite's 1 bits. -/
theorem togglePixels_spriteOf_get (s : State) (x y : Reg) (n : Nibble) (X : Fin 64) (Y : Fin 32) :
    (s.advance.togglePixels (s.spriteOf x y n)).1.fb[Y][X] = (s.fb[Y][X] != s.spriteBit x y n X Y) := by
  rw [togglePixels_get _ (spriteOf_nodup s x y n), State.advance_fb, Bool.bne_eq_xor]
  simp only [mem_spriteOf, Bool.decide_eq_true]

/-- A draw collides when an on pixel is under a 1 bit of the sprite. -/
theorem togglePixels_spriteOf_hit (s : State) (x y : Reg) (n : Nibble) :
    (s.advance.togglePixels (s.spriteOf x y n)).2 = true ↔
      ∃ X Y, s.fb[Y][X] = true ∧ s.spriteBit x y n X Y = true := by
  rw [togglePixels_hit _ (spriteOf_nodup s x y n), Prod.exists]
  exact exists_congr fun X => exists_congr fun Y => and_comm.trans (and_congr_right' mem_spriteOf)

/-- Settles O38. -/
theorem drawSprite : Obligations.DrawSprite := by
  intro x y n s
  refine ⟨fun hin => ?draws, fun h0 hout => ⟨_, execDrw_fault x y n h0 hout, raise_entry s _ _⟩⟩
  have hdraw := execDrw_draw x y n hin
  have hframe := (frame_advance s).trans (frame_togglePixels s.advance (s.spriteOf x y n))
  refine ⟨_, hdraw, togglePixels_spriteOf_get s x y n, ?collision, of_next (execDrw_vf_cases x y hin) hdraw,
    of_next (execDrw_keeps_regs x y n s) hdraw, ?events, ?pc,
    ((hframe.trans (frame_writeReg _ _ _)).trans (frame_emit_render _)).mono (by simp)⟩
  case collision =>
    rw [State.emit_v, writeReg_vf, flagByte_eq_one, togglePixels_spriteOf_hit]
  case events =>
    rw [State.emit_trace, State.writeReg_trace, togglePixels_rest, map_toggle_spriteOf]
    rfl
  case pc => exact frame_togglePixels s.advance (s.spriteOf x y n) .pc (by simp)

/-! ## Drawing twice (R212 g) -/

theorem Grid.ext_get {g h : Grid} (hget : ∀ (X : Fin 64) (Y : Fin 32), g[Y][X] = h[Y][X]) : g = h :=
  Vector.ext fun Y hY => Vector.ext fun X hX => hget ⟨X, hX⟩ ⟨Y, hY⟩

/-- A sprite depends on its coordinates, `I` and memory alone. -/
theorem spriteBit_congr {s t : State} {x y : Reg} (hx : t.v[x] = s.v[x]) (hy : t.v[y] = s.v[y]) (hi : t.i = s.i)
    (hm : ∀ a, t.mem.read a = s.mem.read a) (n : Nibble) (X : Fin 64) (Y : Fin 32) :
    t.spriteBit x y n X Y = s.spriteBit x y n X Y := by
  simp only [State.spriteBit, hx, hy, hi, hm]

/-- Settles O39: the first draw leaves the sprite alone, so the second inverts the same pixels, and where the first
met only off pixels the second finds them on. -/
theorem drawTwiceRestores : Obligations.DrawTwiceRestores := by
  intro x y n s hx hy hin
  obtain ⟨t, ht, hpix, hcol, -, hregs, -, -, hframe⟩ := (drawSprite x y n s).1 hin
  have hi : t.i = s.i := hframe .i (by simp)
  have hbit := spriteBit_congr (hregs x hx) (hregs y hy) hi (hframe .mem (by simp)) n
  obtain ⟨u, hu, hpix', hcol', -⟩ := (drawSprite x y n t).1 (hi.symm ▸ hin)
  refine ⟨t, u, ht, hu, Grid.ext_get fun X Y => ?restored, fun hv ⟨X, Y, hXY⟩ => hcol'.2 ⟨X, Y, ?on, ?lit⟩⟩
  case restored => rw [hpix', hpix, hbit, Bool.bne_assoc, bne_self_eq_false, Bool.bne_false]
  case lit => rw [hbit, hXY]
  case on =>
    have hoff : s.fb[Y][X] = false := by
      by_contra hon
      exact absurd (hv.symm.trans (hcol.2 ⟨X, Y, Bool.eq_true_of_not_eq_false hon, hXY⟩)) (by decide)
    rw [hpix, hoff, hXY]
    rfl

end Sys2Proof.Machine
end

section
/-! PROOF. Keypad and timers (45_keypad_timers.md): two skips on the pressed set, the moves to and from the timers, and
the key wait, which blocks every step until a mapped key-down resolves it. -/

namespace Sys2Proof.Machine

/-! ## Skips on a key (R220, R221, R226) -/

theorem isPressed_eq_true {keys : BitVec 16} {k : Byte} :
    isPressed keys k = true ↔ k.toNat ≤ 15 ∧ keys.getLsbD k.toNat = true := by
  rw [isPressed, Bool.and_eq_true, decide_eq_true_eq]

/-- Settles O40: `SKNP` tests the negation of what `SKP` tests. -/
theorem keySkips : Obligations.KeySkips := by
  intro x s
  refine ⟨⟨_, rfl, advance_skipIf_effect s isPressed_eq_true⟩, ?sknp⟩
  case sknp =>
    have hnot : (!isPressed s.keys s.v[x]) = true ↔ ¬ (s.v[x].toNat ≤ 15 ∧ s.keys.getLsbD s.v[x].toNat = true) := by
      rw [Bool.not_eq_true', ← Bool.not_eq_true, isPressed_eq_true]
    rw [← ite_not]
    exact ⟨_, rfl, advance_skipIf_effect s hnot⟩

/-! ## Timers (R222, R224, R225) -/

/-- Settles O41. -/
theorem delayTimerMoves : Obligations.DelayTimerMoves := fun x s =>
  ⟨⟨_, rfl, writeReg_get_same s.advance x s.dt, advance_writeReg_rest s x s.dt⟩,
    ⟨_, rfl, rfl, rfl, ((frame_advance s).trans (frame_setDt _ _)).mono (by simp)⟩⟩

theorem execLdStVx_zero {x : Reg} {s : State} (h : s.v[x] = 0) :
    exec (.ldStVx x) s = .next (s.advance.setSt s.v[x]) := by
  rw [exec, execLdStVx, if_pos h]

theorem execLdStVx_nonzero {x : Reg} {s : State} (h : s.v[x] ≠ 0) :
    exec (.ldStVx x) s = .next ((s.advance.setSt s.v[x]).emit .startTone) := by
  rw [exec, execLdStVx, if_neg h]

/-- Settles O42. -/
theorem soundTimerStartsTone : Obligations.SoundTimerStartsTone := by
  intro x s
  have hframe : ∀ t, exec (.ldStVx x) s = .next t → Frame [.st, .pc, .tone, .trace] s t := fun t ht =>
    (of_next (execLdStVx_frame x s) ht).mono (by simp [touches])
  by_cases h : s.v[x] = 0
  · have hsilent := execLdStVx_zero h
    exact ⟨_, hsilent, rfl, rfl, fun hne => absurd h hne, fun _ => ⟨rfl, rfl⟩, hframe _ hsilent⟩
  · have hstart := execLdStVx_nonzero h
    exact ⟨_, hstart, rfl, rfl, fun _ => ⟨rfl, rfl⟩, fun h0 => absurd h0 h, hframe _ hstart⟩

/-! ## The key wait (R223, R121, R256) -/

/-- No number of steps passes a blocked state (R121). -/
theorem runOps_step_blocked {s : State} (h : ¬ s.Running) (P : Config.Params) (n : Nat) :
    runOps P (List.replicate n .step) s = .next s := by
  have hstay : ∀ o ∈ List.replicate n Op.step, ∀ t, t = s → ∃ u, runOp P o t = .next u ∧ u = s := by
    rintro o ho t rfl
    rw [List.eq_of_mem_replicate ho]
    exact ⟨t, step_blocked h, rfl⟩
  obtain ⟨t, ht, rfl⟩ := runOps_keeps _ hstay rfl
  exact ht

/-- All that a mapped key-down does where a key is awaited: it enters the pressed set and resolves the latch (R256). -/
theorem keyDown_armed {P : Config.Params} {p : Nat} {k : Key} (hk : keyOf P p = some k) {s : State}
    (hw : s.wait = true) :
    s.keyDown P p =
      { s.writeReg s.waitReg (BitVec.ofNat 8 k.val) with keys := pressKey s.keys k, wait := false } := by
  have harmed : ({ s with keys := pressKey s.keys k } : State).wait = true := hw
  rw [keyDown_mapped hk, resolveWait_armed harmed]
  rfl

theorem frame_keyDown_armed {P : Config.Params} {p : Nat} {k : Key} (hk : keyOf P p = some k) {s : State}
    (hw : s.wait = true) : Frame [.v, .keys, .wait] s (s.keyDown P p) := fun f hf => by
  rw [keyDown_armed hk hw]
  cases f <;> simp_all [Field.Same]

theorem toNat_ofNat_key (k : Key) : (BitVec.ofNat 8 k.val).toNat = k.val :=
  Nat.mod_eq_of_lt (by omega)

/-- Where a key is awaited, a mapped key-down writes the key to the awaited register alone and disarms the latch. -/
theorem keyDown_armed_effect {P : Config.Params} {p : Nat} {k : Key} (hk : keyOf P p = some k) {s : State}
    (hw : s.wait = true) :
    (s.keyDown P p).v[s.waitReg].toNat = k.val ∧ (∀ r, r ≠ s.waitReg → (s.keyDown P p).v[r] = s.v[r]) ∧
      (s.keyDown P p).wait = false := by
  rw [keyDown_armed hk hw]
  refine ⟨?key, fun r hr => writeReg_get_other s _ hr, rfl⟩
  case key => exact (congrArg BitVec.toNat (writeReg_get_same s _ _)).trans (toNat_ofNat_key k)

/-- Settles O43: the armed latch blocks every step, and only the key-down disarms it. -/
theorem keyWaitResolvedByKeyDown : Obligations.KeyWaitResolvedByKeyDown := by
  intro P x s
  refine ⟨s.advance.arm x, rfl, rfl, rfl, rfl, ((frame_advance s).trans (frame_arm _ x)).mono (by simp),
    fun n p k hk => ⟨runOps_step_blocked (by simp [State.Running]) P n, _, rfl, ?resolved⟩⟩
  have hw : (s.advance.arm x).wait = true := rfl
  obtain ⟨hkey, hother, hdisarmed⟩ := keyDown_armed_effect hk hw
  have hframe := frame_keyDown_armed hk hw
  have hpc : ((s.advance.arm x).keyDown P p).pc = nextPc s.pc := hframe .pc (by simp)
  have hfault : ((s.advance.arm x).keyDown P p).fault = s.fault := hframe .fault (by simp)
  exact ⟨hkey, hother, hdisarmed, hpc, fun hsafe => ⟨(congrArg FaultLatch.cause hfault).trans hsafe, hdisarmed⟩, hframe⟩

end Sys2Proof.Machine
end

section
/-! PROOF. The agents outside the core (60_exceptions.md): a tick and any number of ticks, the two key events, and the
halted state, which only a reset leaves. -/

namespace Sys2Proof.Machine

/-! ## One tick (R252) -/

theorem toNat_tick_dt (s : State) : s.tick.dt.toNat = s.dt.toNat - 1 := by
  rcases tick_cases s with hstop | hcount
  · rw [tick_stops hstop, toNat_countDown]
  · rw [tick_counts hcount, toNat_countDown]

theorem toNat_tick_st (s : State) : s.tick.st.toNat = s.st.toNat - 1 := by
  rcases tick_cases s with hstop | hcount
  · have hlast : s.st.toNat - 1 = 0 := by omega
    rw [tick_stops hstop, hlast]
    rfl
  · rw [tick_counts hcount, toNat_countDown]

theorem tick_sound_stops {s : State} (h : s.st.toNat = 1 ∨ (s.st.toNat = 0 ∧ s.tone = true)) :
    s.tick.tone = false ∧ s.tick.trace = s.trace ++ [.stopTone] := by
  rw [tick_stops h]
  exact ⟨rfl, rfl⟩

theorem tick_sound_kept {s : State} (h : 1 < s.st.toNat ∨ (s.st.toNat = 0 ∧ s.tone = false)) :
    s.tick.tone = s.tone ∧ s.tick.trace = s.trace := by
  rw [tick_counts h]
  exact ⟨rfl, rfl⟩

/-- Settles O44. -/
theorem tickCountsDown : Obligations.TickCountsDown := fun _ s =>
  ⟨_, rfl, toNat_tick_dt s, toNat_tick_st s, tick_sound_stops, tick_sound_kept, frame_tick s⟩

/-! ## Ticks in a row (R252) -/

/-- A schedule of ticks alone iterates the tick. -/
theorem runOps_tick (P : Config.Params) (n : Nat) (s : State) :
    runOps P (List.replicate n .tick) s = .next (State.tick^[n] s) := by
  induction n generalizing s with
  | zero => rfl
  | succ n ih => exact ih s.tick

theorem toNat_iterate_tick_dt (s : State) (n : Nat) : (State.tick^[n] s).dt.toNat = s.dt.toNat - n := by
  induction n with
  | zero => rfl
  | succ n ih => rw [Function.iterate_succ_apply', toNat_tick_dt, ih, Nat.sub_sub]

theorem toNat_iterate_tick_st (s : State) (n : Nat) : (State.tick^[n] s).st.toNat = s.st.toNat - n := by
  induction n with
  | zero => rfl
  | succ n ih => rw [Function.iterate_succ_apply', toNat_tick_st, ih, Nat.sub_sub]

/-- Until the sound timer's last tick a sounding tone goes on, with no event. -/
theorem iterate_tick_sounding {s : State} (ht : s.tone = true) {n : Nat} (h : n < max s.st.toNat 1) :
    (State.tick^[n] s).tone = true ∧ (State.tick^[n] s).trace = s.trace := by
  induction n with
  | zero => exact ⟨ht, rfl⟩
  | succ n ih =>
    obtain ⟨htone, htrace⟩ := ih (by omega)
    have hleft : 1 < (State.tick^[n] s).st.toNat := by
      rw [toNat_iterate_tick_st]
      omega
    obtain ⟨htone', htrace'⟩ := tick_sound_kept (.inl hleft)
    rw [Function.iterate_succ_apply']
    exact ⟨htone'.trans htone, htrace'.trans htrace⟩

/-- The sound timer's last tick ends a sounding tone with one `StopTone`, and no later tick emits another. -/
theorem iterate_tick_silent {s : State} (ht : s.tone = true) {n : Nat} (h : max s.st.toNat 1 ≤ n) :
    (State.tick^[n] s).tone = false ∧ (State.tick^[n] s).trace = s.trace ++ [.stopTone] := by
  induction n with
  | zero => omega
  | succ n ih =>
    have hst := toNat_iterate_tick_st s n
    rw [Function.iterate_succ_apply']
    by_cases hn : n < max s.st.toNat 1
    · obtain ⟨htone, htrace⟩ := iterate_tick_sounding ht hn
      have hlast : (State.tick^[n] s).st.toNat = 1 ∨ (State.tick^[n] s).st.toNat = 0 := by omega
      obtain ⟨hoff, hstop⟩ := tick_sound_stops (hlast.imp_right fun h0 => ⟨h0, htone⟩)
      exact ⟨hoff, htrace ▸ hstop⟩
    · obtain ⟨htone, htrace⟩ := ih (by omega)
      obtain ⟨hoff, hkept⟩ := tick_sound_kept (.inr ⟨by omega, htone⟩)
      exact ⟨hoff.trans htone, hkept.trans htrace⟩

/-- Settles O45. -/
theorem ticksSilenceTheTone : Obligations.TicksSilenceTheTone := fun P n s ht =>
  ⟨_, runOps_tick P n s, toNat_iterate_tick_dt s n, toNat_iterate_tick_st s n, iterate_tick_sounding ht,
    iterate_tick_silent ht⟩

/-! ## Key events (R256, R257) -/

/-- All that a mapped key-down does where no key is awaited: the key enters the pressed set. -/
theorem keyDown_idle {P : Config.Params} {p : Nat} {k : Key} (hk : keyOf P p = some k) {s : State}
    (hw : s.wait = false) : s.keyDown P p = { s with keys := pressKey s.keys k } := by
  have hidle : ({ s with keys := pressKey s.keys k } : State).wait = false := hw
  rw [keyDown_mapped hk, resolveWait_idle hidle]

theorem keyDown_keys {P : Config.Params} {p : Nat} {k : Key} (hk : keyOf P p = some k) (s : State) :
    (s.keyDown P p).keys = pressKey s.keys k := by
  cases hw : s.wait with
  | false => rw [keyDown_idle hk hw]
  | true => rw [keyDown_armed hk hw]

theorem keyDown_wait {P : Config.Params} {p : Nat} {k : Key} (hk : keyOf P p = some k) (s : State) :
    (s.keyDown P p).wait = false := by
  cases hw : s.wait with
  | false => rwa [keyDown_idle hk hw]
  | true => rw [keyDown_armed hk hw]

/-- A mapped key-down writes the awaited register, where there is one, and no other. -/
theorem toNat_keyDown_get {P : Config.Params} {p : Nat} {k : Key} (hk : keyOf P p = some k) (s : State) (r : Reg) :
    (s.keyDown P p).v[r].toNat = if s.wait = true ∧ r = s.waitReg then k.val else s.v[r].toNat := by
  cases hw : s.wait with
  | false => rw [keyDown_idle hk hw, if_neg (by simp)]
  | true =>
    obtain ⟨hkey, hother, -⟩ := keyDown_armed_effect hk hw
    by_cases hr : r = s.waitReg
    · rw [if_pos ⟨rfl, hr⟩, hr, hkey]
    · rw [if_neg (fun h => hr h.2), hother r hr]

/-- In every state, whatever the code, a key-down reaches the registers, the pressed set and the latch alone. -/
theorem keyDown_frame (P : Config.Params) (p : Nat) (s : State) : Frame [.v, .keys, .wait] s (s.keyDown P p) := by
  cases hw : s.wait with
  | false => exact (frame_keyDown hw P p).mono (by simp)
  | true =>
    cases hk : keyOf P p with
    | none => rw [keyDown_unmapped hk]; exact Frame.refl _ s
    | some k => exact frame_keyDown_armed hk hw

/-- Settles O46. -/
theorem keyDownPressesAndResolves : Obligations.KeyDownPressesAndResolves := by
  refine fun P p s => ⟨fun hk => congrArg _ (keyDown_unmapped hk s), fun k hk =>
    ⟨_, rfl, fun j => ?pressed, keyDown_wait hk s, toNat_keyDown_get hk s, keyDown_frame P p s⟩⟩
  case pressed => rw [keyDown_keys hk, getLsbD_pressKey]

/-- Settles O47. -/
theorem keyUpReleases : Obligations.KeyUpReleases := by
  refine fun P p s => ⟨fun hk => congrArg _ (keyUp_unmapped hk s), fun k hk =>
    ⟨_, rfl, fun j => ?released, frame_keyUp P p s⟩⟩
  case released => rw [keyUp_mapped hk, getLsbD_releaseKey]

/-! ## The halted state (R245) -/

theorem step_halted {s : State} (h : s.fault.cause ≠ .noFault) : step s = .next s :=
  step_blocked fun hr => h hr.1

/-- In the halted state, every operation but the two resets changes only what ticks and key events reach. -/
theorem runOp_frame_of_halted {s : State} (h : s.fault.cause ≠ .noFault) (P : Config.Params) {o : Op}
    (ho : o ≠ .reset ∧ ∀ rom, o ≠ .loadRom rom) :
    ∃ t, runOp P o s = .next t ∧ Frame [.dt, .st, .tone, .trace, .v, .keys, .wait] s t := by
  cases o with
  | step => exact ⟨s, step_halted h, Frame.refl _ s⟩
  | tick => exact ⟨_, rfl, (frame_tick s).mono (by simp)⟩
  | keyDown p => exact ⟨_, rfl, (keyDown_frame P p s).mono (by simp)⟩
  | keyUp p => exact ⟨_, rfl, (frame_keyUp P p s).mono (by simp)⟩
  | reset => exact absurd rfl ho.1
  | loadRom rom => exact absurd rfl (ho.2 rom)

/-- That frame leaves `FAULT` alone, so the halted state stands through a whole schedule. -/
theorem runOps_frame_of_halted {s : State} (h : s.fault.cause ≠ .noFault) (P : Config.Params) {ops : List Op}
    (hops : ∀ o ∈ ops, o ≠ .reset ∧ ∀ rom, o ≠ .loadRom rom) :
    ∃ t, runOps P ops s = .next t ∧ Frame [.dt, .st, .tone, .trace, .v, .keys, .wait] s t := by
  refine runOps_keeps ops (fun o ho t hst => ?_) (Frame.refl _ s)
  have hfault : t.fault = s.fault := hst .fault (by simp)
  obtain ⟨u, hu, htu⟩ := runOp_frame_of_halted (hfault ▸ h) P (hops o ho)
  exact ⟨u, hu, (hst.trans htu).mono (by simp)⟩

/-- Settles O15: the latched fault stands, so a step in the state reached is blocked too. -/
theorem haltedUntilReset : Obligations.HaltedUntilReset := by
  intro P ops s h hops
  obtain ⟨t, ht, hframe⟩ := runOps_frame_of_halted h P hops
  have hfault : t.fault = s.fault := hframe .fault (by simp)
  exact ⟨t, ht, hfault, step_halted (hfault ▸ h), hframe .pc (by simp), hframe .i (by simp), hframe .stack (by simp),
    hframe .sp (by simp), hframe .mem (by simp)⟩

end Sys2Proof.Machine
end

section
/-! PROOF. Reset and program load (70_reset_and_hazards.md), and the no-operations of a core without a program. -/

namespace Sys2Proof.Machine

/-! ## Reset and program load (R280, R282) -/

/-- Settles O49: beside memory, a reset writes the power-on values (R45); the display is blank by its `Clear`. -/
theorem resetTable : Obligations.ResetTable := by
  intro P s
  obtain ⟨hv, hi, hpc, hstack, hsp, hdt, hst, hkeys, hwait, hwaitReg, -, -, hfault, hfb, -, -⟩ := powerOnState
  refine ⟨s.resetOp P, rfl, hv, hi, hpc, hstack, hsp, hdt, hst, hkeys, hwait, hwaitReg, fun a => ?font,
    fun a ha => ?zero, hfault, hfb, rfl, rfl⟩
  case font => exact (read_afterReset P a).trans (dif_pos a.isLt)
  case zero => exact (read_afterReset P a).trans (dif_neg (by omega))

theorem loadRom_mem (P : Config.Params) (rom : List Byte) (s : State) :
    (s.loadRom P rom).mem = (s.resetOp P).mem.writeBytes 0x200 (rom.take 3232) := rfl

/-- Settles O51: the stored bytes are the first 3232 of the string, over the memory that the reset leaves. -/
theorem romLoadTruncates : Obligations.RomLoadTruncates := by
  intro P rom s
  have hlen : (rom.take 3232).length = min 3232 rom.length := List.length_take
  refine ⟨s.loadRom P rom, s.resetOp P, rfl, rfl, fun k hk => ?copied, fun a ha => ?kept, frame_setMem _ _⟩
  case copied =>
    calc (s.loadRom P rom).mem.read (0x200 + k)
      _ = (rom.take 3232)[k] := by rw [loadRom_mem, Memory.read_writeBytes_inside]
      _ = rom[k] := List.getElem_take
      _ = rom.getD k 0 := (List.getD_eq_getElem rom 0 (by omega)).symm
  case kept => rw [loadRom_mem, Memory.read_writeBytes_outside _ (by omega)]

/-! ## A core without a program (R283) -/

/-- The address of the `k`-th no-operation of a core without a program: from 0x200 to 0xFFE, and round again. -/
def noOpAddr (k : Nat) : Word := BitVec.ofNat 16 (0x200 + 2 * (k % 1792))

theorem toNat_noOpAddr (k : Nat) : (noOpAddr k).toNat = 0x200 + 2 * (k % 1792) := by
  simp only [noOpAddr, BitVec.toNat_ofNat]
  omega

/-- The advance goes from each no-operation to the next, and from 0xFFE back to 0x200 (R123). -/
theorem nextPc_noOpAddr (k : Nat) : nextPc (noOpAddr k) = noOpAddr (k + 1) := by
  apply BitVec.eq_of_toNat_eq
  rw [toNat_nextPc, toNat_noOpAddr, toNat_noOpAddr]
  split <;> omega

/-- A running state at its `k`-th no-operation, over a memory without a program. -/
structure AtNoOp (k : Nat) (s : State) : Prop where
  running : s.Running
  pc : s.pc = noOpAddr k
  empty : ∀ a, 0x200 ≤ a → a < 4096 → s.mem.read a = 0

theorem AtNoOp.pc_bounds {k : Nat} {s : State} (h : AtNoOp k s) : 0x200 ≤ s.pc.toNat ∧ s.pc.toNat ≤ 4094 := by
  rw [h.pc, toNat_noOpAddr]
  omega

theorem AtNoOp.wordAtPc_eq {k : Nat} {s : State} (h : AtNoOp k s) : s.wordAtPc = 0x0000#16 := by
  obtain ⟨hlow, hhigh⟩ := h.pc_bounds
  rw [State.wordAtPc, h.empty _ hlow (by omega), h.empty _ (by omega) (by omega)]
  rfl

/-- The word 0x0000 is unrecognized, so the step is a no-operation with its diagnostic (R126). -/
theorem AtNoOp.step_eq {k : Nat} {s : State} (h : AtNoOp k s) : step s = .next (s.unrecognized 0x0000#16) := by
  have hd : decode 0x0000#16 = .unrecognized .category0 := by decide
  rw [step_word h.running h.pc_bounds.2, h.wordAtPc_eq, hd]

theorem AtNoOp.unrecognized {k : Nat} {s : State} (h : AtNoOp k s) (op : Word) : AtNoOp (k + 1) (s.unrecognized op) :=
  ⟨h.running, by rw [State.unrecognized_pc, h.pc, nextPc_noOpAddr], h.empty⟩

/-- From the `k`-th no-operation, `n` steps reach the one `n` further on, with one diagnostic for each one passed. -/
theorem AtNoOp.runOps_step {k : Nat} {s : State} (h : AtNoOp k s) (P : Config.Params) (n : Nat) :
    ∃ t, runOps P (List.replicate n .step) s = .next t ∧ AtNoOp (k + n) t ∧
      t.trace = s.trace ++ (List.range' k n).map (fun j => .diagUnrecognized 0x0000#16 (noOpAddr j)) ∧
      Frame [.pc, .trace] s t := by
  induction n generalizing k s with
  | zero => exact ⟨s, rfl, h, (List.append_nil _).symm, Frame.refl _ s⟩
  | succ n ih =>
    obtain ⟨t, hrun, hat, htrace, hframe⟩ := ih (h.unrecognized 0x0000#16)
    refine ⟨t, ?run, ?place, ?trace, ((frame_unrecognized s _).trans hframe).mono (by simp)⟩
    case run => simpa only [List.replicate_succ, runOps, runOp, h.step_eq] using hrun
    case place => rwa [Nat.add_right_comm] at hat
    case trace =>
      rw [htrace, State.unrecognized_trace, h.pc, List.append_assoc, List.singleton_append, List.range'_succ,
        List.map_cons]

/-- Settles O52: the state is at no-operation 0, so after `n` steps it is at no-operation `n`. -/
theorem emptyMemoryRunsNoOperations : Obligations.EmptyMemoryRunsNoOperations := by
  intro P n s hr hpc hempty
  have hat : AtNoOp 0 s := ⟨hr, BitVec.eq_of_toNat_eq hpc, hempty⟩
  obtain ⟨t, hrun, hatn, htrace, hframe⟩ := hat.runOps_step P n
  refine ⟨t, hrun, ?_, ?_, hframe⟩
  · rw [hatn.pc, toNat_noOpAddr, Nat.zero_add]
  · rw [htrace, List.range_eq_range']
    rfl

end Sys2Proof.Machine
end

section
/-! PROOF. Where the model's data say each thing once: a word and its instruction, a canonical memory and what it reads
as, a key and its code. -/

namespace Sys2Proof.Machine

/-! ## A word and its instruction (R94, log entry 14) -/

/-- Settles O3. -/
theorem encodeOfDecode : Obligations.EncodeOfDecode := fun _ _ h => encode_of_decode h

/-! ## The canonical memory (R34, log entry 6) -/

/-- In a memory whose addresses rise, a listed cell is what its address reads as. -/
theorem Memory.read_of_mem {m : Memory} (h : m.Pairwise fun c d => c.1 < d.1) {c : Host.Cell} (hc : c ∈ m) :
    m.read c.1 = c.2 := by
  induction m with
  | nil => cases hc
  | cons d m ih =>
    obtain ⟨hd, hm⟩ := List.pairwise_cons.1 h
    rcases List.mem_cons.1 hc with rfl | hc
    · rw [Memory.read_cons, if_pos rfl]
    · rw [Memory.read_cons, if_neg (hd c hc).ne, ih hm hc]

/-- What an address reads as is a listed cell, or what reset puts there. -/
theorem Memory.read_listed_or_initial (m : Memory) (a : Nat) : (a, m.read a) ∈ m ∨ m.read a = Memory.initial a := by
  induction m with
  | nil => exact .inr rfl
  | cons d m ih =>
    rw [Memory.read_cons]
    split
    · next hd => exact .inl (by simp [← hd])
    · exact ih.imp_left (List.mem_cons_of_mem d)

/-- A canonical memory lists exactly the cells that it reads as and that differ from what reset puts there. -/
theorem Memory.mem_iff_read {m : Memory} (h : m.wf) {c : Host.Cell} :
    c ∈ m ↔ c.1 < 4096 ∧ m.read c.1 = c.2 ∧ c.2 ≠ Memory.initial c.1 := by
  obtain ⟨hsorted, hcells⟩ := h
  constructor
  · intro hc
    obtain ⟨hlt, hne⟩ := hcells c hc
    exact ⟨hlt, Memory.read_of_mem hsorted hc, hne⟩
  · rintro ⟨-, hread, hne⟩
    rcases m.read_listed_or_initial c.1 with hmem | hinit
    · rwa [hread] at hmem
    · exact absurd (hread.symm.trans hinit) hne

/-- Settles O36: two memories that read the same list the same cells, and rising addresses leave one order for them. -/
theorem canonicalMemoriesAreUnique : Obligations.CanonicalMemoriesAreUnique := by
  intro m m' h h' hread
  have : Std.Irrefl fun c d : Host.Cell => c.1 < d.1 := ⟨fun c => Nat.lt_irrefl c.1⟩
  have : Std.Antisymm fun c d : Host.Cell => c.1 < d.1 := ⟨fun _ _ hcd hdc => absurd hcd hdc.asymm⟩
  refine h.1.eq_of_mem_iff h'.1 fun c => ?_
  rw [Memory.mem_iff_read h, Memory.mem_iff_read h']
  exact and_congr_right fun hlt => by rw [hread c.1 hlt]

/-! ## The key table (R255, log entry 3) -/

/-- Distinct codes belong to distinct keys. -/
theorem keyCodes_injective {P : Config.Params} (h : P.wf) {j k : Key} (hjk : P.keyCodes[j] = P.keyCodes[k]) : j = k :=
  Fin.ext ((h.getElem_inj_iff (hi := by simp) (hj := by simp)).1 (by simpa using hjk))

/-- The key found for a code has that code. -/
theorem keyCodes_of_keyOf {P : Config.Params} {p : Nat} {k : Key} (h : keyOf P p = some k) : P.keyCodes[k] = p := by
  simpa using List.find?_some h

/-- Some key is found for the code of a key. -/
theorem exists_keyOf (P : Config.Params) (k : Key) : ∃ j, keyOf P P.keyCodes[k] = some j :=
  Option.isSome_iff_exists.1 (List.find?_isSome.2 ⟨k, List.mem_finRange k, by simp⟩)

/-- Settles O48: a key is found for the code of `k`, and where the codes differ it can only be `k`. -/
theorem keymapIsOnto : Obligations.KeymapIsOnto := by
  intro P h p k
  refine ⟨keyCodes_of_keyOf, ?_⟩
  rintro rfl
  obtain ⟨j, hj⟩ := exists_keyOf P k
  rwa [keyCodes_injective h (keyCodes_of_keyOf hj)] at hj

end Sys2Proof.Machine
end
